-- ==== Sys2Proof/Word.lean ====
section
/-! DEFINITION. The words of the host port of the NTT transform engine.

An element word (R64, R120) is read as the unsigned integer it holds (R9, R65) and has the type `Nat`: its width `W` is
a construction parameter (R5), so its bound is stated (`v < P`, R34) instead of being part of its type
(notes/assumptions/2.md, DESIGN CHOICE, safe). -/

namespace Sys2Proof

/-- A control register's contents and the data of a register access: 32 bits (spec/10_state.md section 3, R64). -/
abbrev Word32 := BitVec 32

/-- A register number: 3 bits (spec/10_state.md section 3, R60). -/
abbrev RegNum := BitVec 3

end Sys2Proof
end

