-- ==== Sys2Proof/Config.lean ====
section
/-! DEFINITION. The construction parameters `Cfg` (R5), their constraints (R5, R6) and the spec's named test
configurations (R7). -/

namespace Sys2Proof

/-- The configuration record of R5. None of it is state and no step changes it; it is carried in `State.cfg`
so that a statement quantifies over every configuration (notes/assumptions/1.md, DESIGN CHOICE).
`BUS_MAP` is not observable (R5) and has no field; `LENW` is 32 by R5. -/
structure Cfg where
  /-- `P`, the field characteristic. -/
  p : Nat
  /-- `W`, the bits of one element word. -/
  w : Nat
  /-- `S`, the maximum supported 2-adicity. -/
  twoAdicity : Nat
  /-- `ROOT[0..S]`. -/
  root : List Nat
  /-- `LOG_NMAX`, log2 of the depth of `DMEM`. -/
  logNmax : Nat
  /-- `MIN_CONCURRENT_SIZE`. -/
  mcs : Nat
  /-- `LANES`. -/
  lanes : Nat
  deriving DecidableEq, Repr

/-- `NMAX = 2^LOG_NMAX`, the depth of `DMEM` in elements (R5). -/
def Cfg.nmax (c : Cfg) : Nat := 2 ^ c.logNmax

/-- `ROOT[k]`. -/
def Cfg.rootAt (c : Cfg) (k : Nat) : Nat := c.root.getD k 0

/-- `g` has order exactly `2^k` modulo `p` and is canonical (R6). -/
abbrev Cfg.PrimitiveRoot (p g k : Nat) : Prop :=
  g < p ∧ g ^ (2 ^ k) % p = 1 ∧ ∀ e, e < 2 ^ k → 0 < e → g ^ e % p ≠ 1

/-- The constraints of R5 and R6. They are hypotheses of the statements about values (U4, R161), not checks
the hardware makes. -/
structure Cfg.Valid (c : Cfg) : Prop where
  prime : c.p.Prime
  three_le : 3 ≤ c.p
  one_le_w : 1 ≤ c.w
  w_low : 2 ^ (c.w - 1) < c.p
  w_high : c.p ≤ 2 ^ c.w
  adicity_le : c.twoAdicity ≤ 31
  adicity_dvd : 2 ^ c.twoAdicity ∣ c.p - 1
  root_length : c.root.length = c.twoAdicity + 1
  root_primitive : ∀ k, k ≤ c.twoAdicity → Cfg.PrimitiveRoot c.p (c.rootAt k) k
  one_le_logNmax : 1 ≤ c.logNmax
  logNmax_le : c.logNmax ≤ 31
  one_le_mcs : 1 ≤ c.mcs
  mcs_lt : c.mcs < 2 ^ 32
  one_le_lanes : 1 ≤ c.lanes

/-- `T17` (R7); `MIN_CONCURRENT_SIZE` and `LANES` are stated per use. -/
def Cfg.t17 (mcs lanes : Nat) : Cfg :=
  { p := 17, w := 5, twoAdicity := 4, root := [1, 16, 13, 9, 3], logNmax := 4, mcs := mcs, lanes := lanes }

/-- `T97` (R7). -/
def Cfg.t97 (mcs lanes : Nat) : Cfg :=
  { p := 97, w := 7, twoAdicity := 5, root := [1, 96, 22, 64, 8, 28], logNmax := 5, mcs := mcs, lanes := lanes }

/-- `j + 1` roots, the last of them `g`, each the square of the next one: how R7 gives the table of `G64`. R6 does not
promise this of a configuration (N5). -/
def squaredDown (p : Nat) : Nat → Nat → List Nat
  | 0, g => [g]
  | j + 1, g => squaredDown p j (g * g % p) ++ [g]

/-- `G64` as R7 gives it: `S = 32` and `ROOT[k] = ROOT[32]^(2^(32-k)) mod P`. R5 admits `S <= 31` only, so `G64` is
no `Cfg.Valid` configuration (notes/assumptions/14.md, DESIGN CHOICE, safe). -/
def Cfg.g64 (mcs lanes : Nat) : Cfg :=
  { p := 0xFFFFFFFF00000001, w := 64, twoAdicity := 32,
    root := squaredDown 0xFFFFFFFF00000001 32 1753635133440165772,
    logNmax := 20, mcs := mcs, lanes := lanes }

/-- The configuration that `State.reset` carries: every parameter of R5 is OPEN, and the interface asks for one
machine, so this is the spec's own test configuration `T17`, two lanes, crossover 2
(notes/assumptions/1.md, DESIGN CHOICE, unsafe for a claim that rests on `State.reset.cfg`). -/
def Cfg.atReset : Cfg := Cfg.t17 2 2

end Sys2Proof
end

