-- ==== Sys2Proof/Machine/HostOp.lean ====
section
/-! DEFINITION. What the outside world does to the block: the six host operations (R60) and the events a run
reads, oldest first. -/

namespace Sys2Proof.Machine

/-- The two element address spaces (R61). -/
inductive Space where
  | dmem
  | tmem
  deriving DecidableEq, Repr

/-- The six operations of R60. There is no `TWrite`. -/
inductive HostOp where
  /-- `RegRead(r)`. -/
  | regRead (r : RegNum)
  /-- `RegWrite(r, v)`. -/
  | regWrite (r : RegNum) (v : Word32)
  /-- `DRead(i)`. -/
  | dRead (i : Nat)
  /-- `DWrite(i, v)`. -/
  | dWrite (i : Nat) (v : Nat)
  /-- `TRead(i)`. -/
  | tRead (i : Nat)
  /-- Asserting the power-on reset input (R260). -/
  | reset
  deriving DecidableEq, Repr

/-- One event of the run, in the one total order of R74 (notes/assumptions/4.md and 6.md, DESIGN CHOICE, safe). -/
inductive Event where
  /-- The host makes an operation and nothing else happens before the command it starts, if any, has retired:
  the atomic reading of R14. -/
  | call (op : HostOp)
  /-- The host makes an operation and goes on; a command it starts then runs in micro-operations: the small-step
  reading of R187. -/
  | post (op : HostOp)
  /-- The engine performs its next micro-operation, on `lane`; at a fork whose two children are both live the head
  of `path` says which one moves (`true`: the odd child), and so on down the tree (U7, R182). -/
  | engine (lane : Nat) (path : List Bool)
  deriving DecidableEq, Repr

/-- What a read returned to the host (R60). -/
inductive Reply where
  | reg (r : RegNum) (v : Word32)
  | dmem (i : Nat) (v : Nat)
  | tmem (i : Nat) (v : Nat)
  deriving DecidableEq, Repr

end Sys2Proof.Machine
end

