-- ==== Sys2Proof/Syntax.lean ====
section
/-! DEFINITION. The instructions: one constructor per row of spec/opcode_table.json (R90). -/

namespace Sys2Proof

/-- The three commands of format C and the one control write of format K (R90, R91, R92).
A command takes its only operand, the length, from the register `LEN` (R93), so format C leaves no field;
format K has the reserved field `RSV`, which is ignored (R92, R205) and kept here so that no bit is lost. -/
inductive Instr where
  /-- `BUILD_TW`, command word `0x00000001` (R156). -/
  | buildTw
  /-- `NTT`, command word `0x00000002` (R180). -/
  | ntt
  /-- `BITREV`, command word `0x00000003` (R142). -/
  | bitrev
  /-- `SRST`, control word with bit 0 set; `rsv` is bits 31:1 (R92, R205). -/
  | srst (rsv : BitVec 31)
  deriving DecidableEq, Repr

end Sys2Proof
end

