-- ==== Sys2Proof/WellFormed.lean ====
section
/-! DEFINITION. Well-formed instructions, host operations and events: what the formats and the widths of the
port can express. -/

namespace Sys2Proof

/-- Every term of `Instr` is a word of its format: format C has no field (R91) and format K ignores its 31
reserved bits (R92), whose width is in the type. -/
def Instr.wf : Instr → Bool
  | .buildTw => true
  | .ntt => true
  | .bitrev => true
  | .srst _ => true

namespace Machine

/-- The port can express the operation: an index is exactly as wide as its space (R61) and data is `W` bits (R60). -/
def HostOp.wf (c : Cfg) : HostOp → Bool
  | .regRead _ => true
  | .regWrite _ _ => true
  | .dRead i => decide (i < c.nmax)
  | .dWrite i v => decide (i < c.nmax) && decide (v < 2 ^ c.w)
  | .tRead i => decide (i < c.nmax / 2)
  | .reset => true

/-- A host event is well formed when its operation is; an engine event when it names one of the `LANES` lanes (R14). -/
def Event.wf (c : Cfg) : Event → Bool
  | .call op => op.wf c
  | .post op => op.wf c
  | .engine lane _ => decide (lane < c.lanes)

end Machine

end Sys2Proof
end

