-- ==== Sys2Proof/Decode.lean ====
section
/-! DEFINITION. Decoding of the words the host writes to `CMD` (format C) and `CTRL` (format K), total on every
register number and every word, and the encoder (spec/30_encoding.md). -/

namespace Sys2Proof

/-- Why a register write is no instruction. -/
inductive DecodeError where
  /-- A command word with `OP` outside 1, 2, 3 or a reserved bit set (R95). -/
  | illegalCommand (w : Word32)
  /-- A control word with bit 0 clear: it does nothing (R28). -/
  | controlNoOperation (w : Word32)
  /-- The register takes no instruction: only `CMD` and `CTRL` do (R206). -/
  | notAnInstructionRegister (r : RegNum)
  deriving DecidableEq, Repr

/-- Register number of `CMD` (spec/10_state.md section 3). -/
def regCmd : RegNum := 0#3
/-- Register number of `LEN`. -/
def regLen : RegNum := 1#3
/-- Register number of `STATUS`. -/
def regStatus : RegNum := 2#3
/-- Register number of `TWLEN`. -/
def regTwlen : RegNum := 3#3
/-- Register number of `CTRL`. -/
def regCtrl : RegNum := 4#3
/-- Register number of `MCS`. -/
def regMcs : RegNum := 5#3

/-- Field `OP` of format C, bits 3:0 (R91). -/
def fieldOp (w : Word32) : BitVec 4 := w.extractLsb' 0 4

/-- Field `RSV` of format C, bits 31:4 (R91). -/
def fieldRsvC (w : Word32) : BitVec 28 := w.extractLsb' 4 28

/-- Field `SRST` of format K, bit 0 (R92). -/
def fieldSrst (w : Word32) : BitVec 1 := w.extractLsb' 0 1

/-- Field `RSV` of format K, bits 31:1 (R92). -/
def fieldRsvK (w : Word32) : BitVec 31 := w.extractLsb' 1 31

/-- The opcode map (R94, R95). -/
def decodeC (w : Word32) : Except DecodeError Instr :=
  if fieldRsvC w ≠ 0#28 then .error (.illegalCommand w)
  else if fieldOp w = 1#4 then .ok .buildTw
  else if fieldOp w = 2#4 then .ok .ntt
  else if fieldOp w = 3#4 then .ok .bitrev
  else .error (.illegalCommand w)

/-- Format K (R92): bit 0 set is `SRST`, the other bits are ignored. -/
def decodeK (w : Word32) : Except DecodeError Instr :=
  if fieldSrst w = 1#1 then .ok (.srst (fieldRsvK w)) else .error (.controlNoOperation w)

/-- The instruction in a write of `w` to register `r`, or the reason there is none. -/
def decode (r : RegNum) (w : Word32) : Except DecodeError Instr :=
  if r = regCmd then decodeC w
  else if r = regCtrl then decodeK w
  else .error (.notAnInstructionRegister r)

/-- The register an instruction's word is written to (R91, R92). -/
def encodeReg : Instr → RegNum
  | .buildTw => regCmd
  | .ntt => regCmd
  | .bitrev => regCmd
  | .srst _ => regCtrl

/-- The instruction's word, field by field (R91, R92, R94). -/
def encode : Instr → Word32
  | .buildTw => 0#28 ++ 1#4
  | .ntt => 0#28 ++ 2#4
  | .bitrev => 0#28 ++ 3#4
  | .srst rsv => rsv ++ 1#1

/-- `OPL`, the opcode latched at issue (R33, R200); `SRST` is no command and latches nothing. -/
def opcode : Instr → BitVec 4
  | .buildTw => 1#4
  | .ntt => 2#4
  | .bitrev => 3#4
  | .srst _ => 0#4

/-- The word of a row of spec/opcode_table.json: bits from `nbits` up are 0. -/
def tableWord (nbits w : Nat) : Word32 := BitVec.ofNat 32 (w % 2 ^ nbits)

/-- Which of the two instruction registers a table word is written to. The table numbers the words of format C
and of format K alike and gives a format-K row only its bit 0, so a word of fewer than 32 given bits is a control
word; a word of 32 bits is a command word where it is a legal one, and a control word where it is not and its
bit 0 is set (notes/assumptions/8.md, DESIGN CHOICE, safe). -/
def tableReg (nbits w : Nat) : RegNum :=
  if nbits < 32 then regCtrl
  else
    match decodeC (tableWord nbits w) with
    | .ok _ => regCmd
    | .error _ => if fieldSrst (tableWord nbits w) = 1#1 then regCtrl else regCmd

/-- The instruction the decoder reads from a word of spec/opcode_table.json. -/
def decodeTableWord (nbits w : Nat) : Option Instr :=
  match decode (tableReg nbits w) (tableWord nbits w) with
  | .ok i => some i
  | .error _ => none

end Sys2Proof
end

