-- ==== Sys2Proof/Machine/State.lean ====
section
/-! DEFINITION. The state of the block (spec/10_state.md), the reasons a step stops, and the state after reset. -/

namespace Sys2Proof.Machine

/-- An element memory: (index, word) pairs, indices strictly rising. An index that is not listed has no value
(R36). A cell is one whole element (R64), not a byte: the block has no bytes (R65; notes/assumptions/2.md). -/
abbrev Memory := List (Nat × Nat)

/-- The canonical form of a memory. No entry can equal what an unlisted index reads as, since that is no value. -/
abbrev Memory.wf (m : Memory) : Prop := List.Pairwise (fun a b => a.1 < b.1) m

/-- `STATUS.STATE` (R26); the value 3 never occurs (U11). -/
inductive Mode where
  | idle
  | busy
  | fault
  deriving DecidableEq, Repr

/-- The fault codes 1 to 7 (R221); 8 to 15 are never recorded (U11). -/
inductive Err where
  /-- Code 1, `ERR_ILLEGAL_CMD`. -/
  | illegalCmd
  /-- Code 2, `ERR_NOT_POW2`. -/
  | notPow2
  /-- Code 3, `ERR_CAPACITY`. -/
  | capacity
  /-- Code 4, `ERR_LEN_RANGE`. -/
  | lenRange
  /-- Code 5, `ERR_ROOT`. -/
  | root
  /-- Code 6, `ERR_TWIDDLE_LEN`. -/
  | twiddleLen
  /-- Code 7, `ERR_NONCANON`. -/
  | nonCanon
  deriving DecidableEq, Repr

/-- The fields of `STATUS` (R26); `err = none` is code 0. -/
structure Status where
  mode : Mode
  done : Bool
  err : Option Err
  deriving DecidableEq, Repr

/-- The working registers of one butterfly lane (R21, R171). -/
structure Lane where
  ev : Nat
  od : Nat
  twd : Nat
  pr : Nat
  deriving DecidableEq, Repr

/-- The live tasks of a running `NTT` (R23, R182). A task is the record `(o, s, phase, j)`; a parent that waits at
its join is in phase `DESCEND` and holds its two children. -/
inductive Task where
  /-- Phase `DESCEND`, nothing dispatched yet. -/
  | descend (o s : Nat)
  /-- Phase `DESCEND`, the two children dispatched: concurrently (`par`) or one after the other (R173, R181). -/
  | join (o s : Nat) (par : Bool) (even odd : Task)
  /-- Phase `COMBINE`, the next butterfly is `j`. -/
  | combine (o s j : Nat)
  /-- Phase `DONE`. -/
  | done (o s : Nat)
  deriving DecidableEq, Repr

/-- The sequencer descriptor (R23): a loop index for `BUILD_TW` (its two loops, R156) and `BITREV` (R142), the live
tasks for `NTT`. -/
inductive Desc where
  /-- `BUILD_TW`, the loop of `PSER`, next index `i` (R127). -/
  | series (i : Nat)
  /-- `BUILD_TW`, the bit reversal of `TMEM`, next index `i` (R156). -/
  | permuteTable (i : Nat)
  /-- `BITREV`, next index `i` (R142). -/
  | permuteData (i : Nat)
  /-- `NTT`, the task tree (R173). -/
  | tasks (t : Task)
  deriving DecidableEq, Repr

/-- The hidden state, which exists only while `STATE = BUSY` (R33). -/
structure Run where
  /-- `OPL`, the opcode latched at issue. -/
  opl : BitVec 4
  /-- `NL`, the length latched at issue. -/
  nl : Word32
  /-- The sequencer descriptor. -/
  seq : Desc
  /-- `EV`, `OD`, `TWD`, `PR` of each lane. -/
  lanes : List Lane
  /-- `ACC` of `PSER`. -/
  acc : Nat
  /-- `G` of `PSER`. -/
  gen : Nat
  /-- `TMP` of `SWAP`. -/
  tmp : Nat
  /-- The held host operations in the order the host issued them (R72), each with the way it was made. -/
  held : List Event
  deriving DecidableEq, Repr

/-- The whole state (R15, R20), the construction parameters it is built with (R5), and the two ends of the host
port, which are the model's own. -/
structure State where
  /-- The construction parameters; no step changes them. -/
  cfg : Cfg
  /-- `LEN`, register 1 (R25). -/
  len : Word32
  /-- `STATUS`, register 2 (R26). -/
  status : Status
  /-- `TWLEN`, register 3 (R27). -/
  twlen : Word32
  /-- `DMEM` (R31). -/
  dmem : Memory
  /-- `TMEM` (R32). -/
  tmem : Memory
  /-- The hidden state (R33). -/
  run : Option Run
  /-- What the outside does next, oldest first: the total order of R74 and the schedule of U7
  (the model's own field, notes/assumptions/4.md). -/
  inbox : List Event
  /-- What reads have returned to the host, newest first (the model's own field, notes/assumptions/5.md). -/
  replies : List Reply
  deriving DecidableEq, Repr

/-- Why the machine stops with a fault. The block's own faults (R221) are next states; these are the events the
port cannot express. -/
inductive Fault where
  /-- Raised by the host port: an index outside its address space. R61: an index is exactly as wide as its space, so
  no such operation exists. Safe: the model stops. -/
  | indexOutsideSpace (sp : Space) (i : Nat)
  /-- Raised by the host port: data wider than the `W`-bit port (R60). No such operation exists. Safe. -/
  | dataWiderThanPort (v : Nat)
  /-- Raised by an engine event that names a lane the block does not have (R14). Safe. -/
  | noSuchLane (lane : Nat)
  deriving DecidableEq, Repr

/-- Why a step is given no meaning. -/
inductive Refusal where
  /-- Raised by an arm of `exec` whose instruction has no meaning yet. Safe. -/
  | notModelled (mnemonic : String)
  /-- Raised by a host read and by the issue of a command whose range includes a word nothing has written since
  power-on: R36 and U1 say the model refuses it. Safe. -/
  | wordWithoutValue (sp : Space) (i : Nat)
  /-- Raised by a butterfly given an operand word that is not below `P`: U3 says refuse; R34 makes it unreachable.
  Safe. -/
  | nonCanonicalOperand (sp : Space) (i : Nat)
  /-- Raised by the issue of `BUILD_TW` in a configuration whose `ROOT[k]` is missing or not below `P`, which R5 and
  R6 exclude: U4 says refuse. Safe. -/
  | rootNotConfigured (k : Nat)
  deriving DecidableEq, Repr

/-- `STATUS` after either reset (R37, R262). -/
def Status.reset : Status := { mode := .idle, done := false, err := none }

/-- The block built with the parameters `c`, right after power-on reset (R37, R261), with nothing waiting at the
port. -/
def State.resetWith (c : Cfg) : State :=
  { cfg := c, len := 0#32, status := Status.reset, twlen := 0#32, dmem := [], tmem := [], run := none,
    inbox := [], replies := [] }

/-- The machine right after reset (R37), built with `Cfg.atReset` (notes/assumptions/1.md, DESIGN CHOICE). -/
def State.reset : State := State.resetWith Cfg.atReset

end Sys2Proof.Machine
end

