-- ==== Sys2Proof/Machine/Operands.lean ====
section
/-! DEFINITION. Operands: the length operand and what is computed from it (R8, R93), bit reversal of an index (R10),
and the element operand of a kernel operation. -/

namespace Sys2Proof.Machine

/-- `ispow2(n)` (R8). -/
def isPow2 (n : Nat) : Bool := n != 0 && (n &&& (n - 1)) == 0

/-- `m = log2(n)` for a power of two `n`: the index of its set bit (R8, R93). -/
def logLength (n : Nat) : Nat := Nat.log2 n

/-- `n div 2`: `n` shifted right by one (R93). -/
def halfLength (n : Nat) : Nat := n / 2

/-- `rev_m(i)`: the low-order `m` bits of `i` in reversed order (R10). -/
def rev : Nat → Nat → Nat
  | 0, _ => 0
  | m + 1, i => i % 2 * 2 ^ m + rev m (i / 2)

/-- The word at index `i`, or no value (R36). -/
def Memory.read (m : Memory) (i : Nat) : Option Nat :=
  match m with
  | [] => none
  | (j, v) :: rest => if j = i then some v else Memory.read rest i

/-- The raw word at `i`, as a move needs it: a word without a value is refused (R36). -/
def wordAt (sp : Space) (m : Memory) (i : Nat) : Except Refusal Nat :=
  match m.read i with
  | none => .error (.wordWithoutValue sp i)
  | some v => .ok v

/-- The word at `i` as an operand of a kernel operation: it must also be canonical (R120, U3). -/
def operandAt (c : Cfg) (sp : Space) (m : Memory) (i : Nat) : Except Refusal Nat :=
  match m.read i with
  | none => .error (.wordWithoutValue sp i)
  | some v => if v < c.p then .ok v else .error (.nonCanonicalOperand sp i)

end Sys2Proof.Machine
end

