-- ==== Sys2Proof/Machine/Ops.lean ====
section
/-! DEFINITION. Named operations over the memories, the registers and the host port; fault entry (R230) and the two
ways out of `FAULT` (R233): the soft reset (R262) and the power-on reset (R261). -/

namespace Sys2Proof.Machine

/-- Write the word `v` at index `i`, keeping the indices in rising order. -/
def Memory.write (m : Memory) (i : Nat) (v : Nat) : Memory :=
  match m with
  | [] => [(i, v)]
  | (j, w) :: rest =>
    if i < j then (i, v) :: (j, w) :: rest
    else if i = j then (i, v) :: rest
    else (j, w) :: Memory.write rest i v

/-- The first of the `k` indices from `i` on whose word has no value. -/
def Memory.firstMissing (m : Memory) : Nat → Nat → Option Nat
  | 0, _ => none
  | k + 1, i =>
    match m.read i with
    | none => some i
    | some _ => Memory.firstMissing m k (i + 1)

/-- Fault entry with code `code`, raised by a host write that has no other effect (R230). -/
def faultEntry (code : Err) (s : State) : State :=
  { s with status := { mode := .fault, done := false, err := some code } }

/-- Soft reset (R262): the registers take their reset values, the memories keep their contents. -/
def softReset (s : State) : State :=
  { s with len := 0#32, status := Status.reset, twlen := 0#32 }

/-- Power-on reset (R260, R261): the registers take their reset values, every word of the memories loses its value,
the hidden state and the held operations are gone. The host's side of the port is outside the block and stays. -/
def powerOnReset (s : State) : State :=
  { State.resetWith s.cfg with inbox := s.inbox, replies := s.replies }

/-- Hold a host operation until the running command retires (R72). -/
def hold (e : Event) (s : State) : State :=
  { s with run := s.run.map (fun r => { r with held := r.held ++ [e] }) }

/-- A read returns to the host. -/
def answer (r : Reply) (s : State) : State :=
  { s with replies := r :: s.replies }

/-- A write to a register other than `CMD` and `CTRL`: `LEN` takes the value, the others ignore it (R71, R206). -/
def writeReg (r : RegNum) (v : Word32) (s : State) : State :=
  if r = regLen then { s with len := v } else s

end Sys2Proof.Machine
end

