-- ==== Sys2Proof/Machine/Flags.lean ====
section
/-! DEFINITION. The status flags (R26): the `STATUS` word, the register values a read returns, the command check that
sets `ERR` (R223), and what issue and retire do to `STATE` and `DONE` (R200, R204). -/

namespace Sys2Proof.Machine

/-- The code of a fault (R221). -/
def Err.code : Err → BitVec 4
  | .illegalCmd => 1#4
  | .notPow2 => 2#4
  | .capacity => 3#4
  | .lenRange => 4#4
  | .root => 5#4
  | .twiddleLen => 6#4
  | .nonCanon => 7#4

/-- The value of `STATE` (R26). -/
def Mode.code : Mode → BitVec 2
  | .idle => 0#2
  | .busy => 1#2
  | .fault => 2#2

/-- `ERR`, 0 when there is no fault (R26). -/
def Status.errCode (st : Status) : BitVec 4 :=
  match st.err with
  | none => 0#4
  | some e => e.code

/-- The 32 bits of `STATUS`: reserved, `ERR`, reserved, `DONE`, `STATE` (R26). -/
def Status.word (st : Status) : Word32 :=
  0#24 ++ st.errCode ++ 0#1 ++ BitVec.ofBool st.done ++ st.mode.code

/-- The value `RegRead` returns (spec/10_state.md section 3, R206). -/
def regValue (s : State) (r : RegNum) : Word32 :=
  if r = regLen then s.len
  else if r = regStatus then s.status.word
  else if r = regTwlen then s.twlen
  else if r = regMcs then BitVec.ofNat 32 s.cfg.mcs
  else 0#32

/-- Steps 2 to 6 of the command check (R223): the first condition that applies, for a legal command word. -/
def checkLength (c : Cfg) (i : Instr) (len twlen : Word32) : Option Err :=
  if !isPow2 len.toNat then some .notPow2
  else if len.toNat > c.nmax then some .capacity
  else
    match i with
    | .buildTw =>
      if len.toNat < 2 then some .lenRange
      else if logLength len.toNat > c.twoAdicity then some .root
      else none
    | .ntt => if len.toNat ≠ 2 * twlen.toNat then some .twiddleLen else none
    | .bitrev => none
    | .srst _ => none

/-- The command check of R223 on a command word. -/
def check (c : Cfg) (v len twlen : Word32) : Option Err :=
  match decodeC v with
  | .error _ => some .illegalCmd
  | .ok i => checkLength c i len twlen

/-- Issue: `DONE <- 0`, `STATE <- BUSY` (R200). -/
def Status.issued (st : Status) : Status := { st with mode := .busy, done := false }

/-- Retire: `STATE <- IDLE`, `DONE <- 1` (R204). -/
def Status.retired (st : Status) : Status := { st with mode := .idle, done := true }

end Sys2Proof.Machine
end

