-- ==== Sys2Proof/Machine/Kernel.lean ====
section
/-! DEFINITION. The field-element kernel (spec/40_field_kernel.md): `FADD`, `FSUB`, `FMUL`, `FEXP`, `FROOT`, each the
exact integer result reduced modulo `P`. -/

namespace Sys2Proof.Machine

/-- `FADD` (R121): the full sum, reduced. -/
def fadd (c : Cfg) (a b : Nat) : Nat := (a + b) % c.p

/-- `FSUB` (R122): `(a - b) mod P` on integers (R9). -/
def fsub (c : Cfg) (a b : Nat) : Nat := (((a : Int) - (b : Int)) % (c.p : Int)).toNat

/-- `FMUL` (R123): the full product, reduced. -/
def fmul (c : Cfg) (a b : Nat) : Nat := a * b % c.p

/-- `FEXP` (R124): `a^e mod P`, with `a^0 = ONE`. No command uses it. -/
def fexp (c : Cfg) (a e : Nat) : Nat := a ^ e % c.p

/-- `FROOT` (R125): fails with `ERR_ROOT` when `k > S`. -/
def froot (c : Cfg) (k : Nat) : Except Err Nat :=
  if k > c.twoAdicity then .error .root else .ok (c.rootAt k)

/-- `ROOT[k]` as the table builder uses it, after its check has established `k <= S`; a configuration that has no
canonical `ROOT[k]` breaks R5 or R6 and is refused (U4, notes/assumptions/13.md). -/
def configuredRoot (c : Cfg) (k : Nat) : Except Refusal Nat :=
  match froot c k with
  | .error _ => .error (.rootNotConfigured k)
  | .ok g => if k < c.root.length ∧ g < c.p then .ok g else .error (.rootNotConfigured k)

end Sys2Proof.Machine
end

