-- ==== Sys2Proof/Machine/Control.lean ====
section
/-! DEFINITION. Command issue and retire (R200, R204), what every command shares, and `SRST` (R205). -/

namespace Sys2Proof.Machine

/-- Lane registers at issue. Every micro-operation writes each register before it reads it (R21), so no result
depends on these values (notes/assumptions/15.md, DESIGN CHOICE, safe). -/
def Lane.clear : Lane := { ev := 0, od := 0, twd := 0, pr := 0 }

/-- The generator `PSER` starts with: `ROOT[log2 NL]` for `BUILD_TW` (R156); the other commands do not use `G`. -/
def startGenerator (c : Cfg) (i : Instr) (len : Word32) : Except Refusal Nat :=
  match i with
  | .buildTw => configuredRoot c (logLength len.toNat)
  | .ntt => .ok 0
  | .bitrev => .ok 0
  | .srst _ => .ok 0

/-- The initial descriptor of a command (R200, R23). -/
def startDesc : Instr → Desc
  | .buildTw => .series 0
  | .ntt => .tasks (.descend 0 1)
  | .bitrev => .permuteData 0
  | .srst _ => .permuteData 0

/-- The first word of the command's range that has no value (R36): `NTT` reads `D[0..n)` and `T[0..n/2)`, `BITREV`
reads `D[0..n)`, `BUILD_TW` writes what it reads (R80). -/
def missingWord (i : Instr) (s : State) : Option Refusal :=
  match i with
  | .buildTw => none
  | .ntt =>
    match s.dmem.firstMissing s.len.toNat 0 with
    | some k => some (.wordWithoutValue .dmem k)
    | none =>
      match s.tmem.firstMissing (halfLength s.len.toNat) 0 with
      | some k => some (.wordWithoutValue .tmem k)
      | none => none
  | .bitrev =>
    match s.dmem.firstMissing s.len.toNat 0 with
    | some k => some (.wordWithoutValue .dmem k)
    | none => none
  | .srst _ => none

/-- The hidden state at issue (R33, R200). -/
def startRun (i : Instr) (g : Nat) (s : State) : Run :=
  { opl := opcode i, nl := s.len, seq := startDesc i, lanes := List.replicate s.cfg.lanes Lane.clear,
    acc := 1, gen := g, tmp := 0, held := [] }

/-- What a command whose checks passed latches (R200), unless its range includes a word without a value (R36). -/
def latch (i : Instr) (s : State) : Except Refusal Run :=
  match missingWord i s with
  | some r => .error r
  | none =>
    match startGenerator s.cfg i s.len with
    | .error r => .error r
    | .ok g => .ok (startRun i g s)

/-- Issue (R200): the hidden state exists from here on, `STATE <- BUSY`, `DONE <- 0`. -/
def beginRun (r : Run) (s : State) : State :=
  { s with status := s.status.issued, run := some r }

/-- Retire (R204): `TWLEN <- NL div 2` for `BUILD_TW`, `STATE <- IDLE`, `DONE <- 1`, the hidden state is discarded and
the held operations are released in issue order, ahead of what the host does later (R72). -/
def retire (s : State) : State :=
  match s.run with
  | none => { s with status := s.status.retired }
  | some r =>
    { s with
      twlen := if r.opl = 1#4 then r.nl >>> 1 else s.twlen
      status := s.status.retired
      run := none
      inbox := r.held ++ s.inbox }

/-- A command word written to `CMD`, by the state of the block: held in `BUSY` (R72), ignored in `FAULT` (R73); in
`IDLE` the check (R223), then a fault entry or the issue followed by `body` (R200, R201).
`body` is the whole run up to retire for the atomic reading (R14), and nothing for a posted command (R187). -/
def command (i : Instr) (body : Run → State → Except Refusal State) (s : State) :
    Host.Outcome State Fault Refusal :=
  match s.status.mode with
  | .busy => .next (hold (.call (.regWrite (encodeReg i) (encode i))) s)
  | .fault => .next s
  | .idle =>
    match checkLength s.cfg i s.len s.twlen with
    | some code => .next (faultEntry code s)
    | none =>
      match latch i s with
      | .error e => .refused e
      | .ok r =>
        match body r (beginRun r s) with
        | .error e => .refused e
        | .ok s' => .next s'

/-- `SRST` (R205): held in `BUSY`, else the soft reset of R262. -/
def execSrst (rsv : BitVec 31) (s : State) : Host.Outcome State Fault Refusal :=
  match s.status.mode with
  | .busy => .next (hold (.call (.regWrite (encodeReg (.srst rsv)) (encode (.srst rsv)))) s)
  | .idle => .next (softReset s)
  | .fault => .next (softReset s)

end Sys2Proof.Machine
end

