-- ==== Sys2Proof/Machine/Transform.lean ====
section
/-! DEFINITION. The transform engine (spec/43_transform.md): the butterfly, the recursive procedure, the stage form,
and `NTT`. -/

namespace Sys2Proof.Machine

/-- The reads and the product of `BFLY p, q, t` in one lane (R171): `EV <- D[p]`, `OD <- D[q]`, `TWD <- T[t]`,
`PR <- fmul(TWD, OD)`. -/
def bflyLoad (c : Cfg) (t : Memory) (p q ti : Nat) (d : Memory) : Except Refusal Lane :=
  match operandAt c .dmem d p with
  | .error r => .error r
  | .ok ev =>
    match operandAt c .dmem d q with
    | .error r => .error r
    | .ok od =>
      match operandAt c .tmem t ti with
      | .error r => .error r
      | .ok twd => .ok { ev := ev, od := od, twd := twd, pr := fmul c twd od }

/-- The reads of `BFLY0 p, q` (R171): no twiddle and `PR <- OD`; `TWD` keeps what the lane held. -/
def bfly0Load (c : Cfg) (lane : Lane) (p q : Nat) (d : Memory) : Except Refusal Lane :=
  match operandAt c .dmem d p with
  | .error r => .error r
  | .ok ev =>
    match operandAt c .dmem d q with
    | .error r => .error r
    | .ok od => .ok { ev := ev, od := od, twd := lane.twd, pr := od }

/-- The two writes of a butterfly (R171): `D[p] <- fadd(EV, PR)`, `D[q] <- fsub(EV, PR)`. -/
def bflyStore (c : Cfg) (lane : Lane) (p q : Nat) (d : Memory) : Memory :=
  (d.write p (fadd c lane.ev lane.pr)).write q (fsub c lane.ev lane.pr)

/-- `BFLY p, q, t` (R171). -/
def bfly (c : Cfg) (t : Memory) (p q ti : Nat) (d : Memory) : Except Refusal Memory :=
  match bflyLoad c t p q ti d with
  | .error r => .error r
  | .ok lane => .ok (bflyStore c lane p q d)

/-- `BFLY0 p, q` (R171). -/
def bfly0 (c : Cfg) (p q : Nat) (d : Memory) : Except Refusal Memory :=
  match bfly0Load c Lane.clear p q d with
  | .error r => .error r
  | .ok lane => .ok (bflyStore c lane p q d)

/-- `k` iterations of the combine loop of sub-problem `(o, s)` from butterfly `j` on (R173, R174). -/
def combineLoop (c : Cfg) (t : Memory) (o s : Nat) : Nat → Nat → Memory → Except Refusal Memory
  | 0, _, d => .ok d
  | k + 1, j, d =>
    match bfly c t (o + 2 * j * s) (o + 2 * j * s + s) j d with
    | .error r => .error r
    | .ok d' => combineLoop c t o s k (j + 1) d'

/-- `NTT_SUB(o, s)` (R173), the even child before the odd one: either order of the two gives the same result
(R184). The first argument bounds the depth of the recursion; `log2 NL` is enough, since `s` doubles. -/
def nttSub (c : Cfg) (t : Memory) (nl : Nat) : Nat → Nat → Nat → Memory → Except Refusal Memory
  | 0, _, _, d => .ok d
  | f + 1, o, s, d =>
    if nl / s ≤ 1 then .ok d
    else if nl / s = 2 then bfly0 c o (o + s) d
    else
      match nttSub c t nl f o (2 * s) d with
      | .error r => .error r
      | .ok d1 =>
        match nttSub c t nl f (o + s) (2 * s) d1 with
        | .error r => .error r
        | .ok d2 => combineLoop c t o s (nl / s / 2) 0 d2

/-- One stage of the iterative form (R175): `k` positions from `p` on, stride `s`. -/
def stagePass (c : Cfg) (t : Memory) (s : Nat) : Nat → Nat → Memory → Except Refusal Memory
  | 0, _, d => .ok d
  | k + 1, p, d =>
    if p / s % 2 = 0 then
      match bfly c t p (p + s) (p / (2 * s)) d with
      | .error r => .error r
      | .ok d' => stagePass c t s k (p + 1) d'
    else stagePass c t s k (p + 1) d

/-- The iterative form (R175): `f` stages from stride `s` down. `NTT` runs the recursive form; the two agree. -/
def nttStages (c : Cfg) (t : Memory) (nl : Nat) : Nat → Nat → Memory → Except Refusal Memory
  | 0, _, d => .ok d
  | f + 1, s, d =>
    match stagePass c t s nl 0 d with
    | .error r => .error r
    | .ok d' => nttStages c t nl f (s / 2) d'

/-- The run of `NTT` (R180): `NTT_SUB(0, 1)`. -/
def nttBody (r : Run) (s : State) : Except Refusal State :=
  match nttSub s.cfg s.tmem r.nl.toNat (logLength r.nl.toNat) 0 1 s.dmem with
  | .error e => .error e
  | .ok d => .ok (retire { s with dmem := d })

/-- `NTT` (R180). -/
def execNtt (s : State) : Host.Outcome State Fault Refusal := command .ntt nttBody s

end Sys2Proof.Machine
end

