-- ==== Sys2Proof/Machine/Bitrev.lean ====
section
/-! DEFINITION. The bit-reversal permutation unit (spec/41_bitrev.md): `SWAP`, one iteration of the loop, the loop, and
`BITREV`. -/

namespace Sys2Proof.Machine

/-- `SWAP space, i, j` (R141): the word left in `TMP` and the memory after the two writes. The words are moved bit for
bit (R142), so they need not be canonical. -/
def swap (sp : Space) (m : Memory) (i j : Nat) : Except Refusal (Nat × Memory) :=
  match wordAt sp m i with
  | .error r => .error r
  | .ok a =>
    match wordAt sp m j with
    | .error r => .error r
    | .ok b => .ok (a, (m.write i b).write j a)

/-- The loop body at index `i` with `b`-bit reversal: swap when `i < rev_b(i)` (R142, D20); `tmp` is `TMP` before. -/
def permuteStep (sp : Space) (b i : Nat) (tmp : Nat) (m : Memory) : Except Refusal (Nat × Memory) :=
  if i < rev b i then swap sp m i (rev b i) else .ok (tmp, m)

/-- `k` iterations of the loop from index `i` on. -/
def permuteLoop (sp : Space) (b : Nat) : Nat → Nat → Memory → Except Refusal Memory
  | 0, _, m => .ok m
  | k + 1, i, m =>
    match permuteStep sp b i 0 m with
    | .error r => .error r
    | .ok (_, m') => permuteLoop sp b k (i + 1) m'

/-- The run of `BITREV` on `D[0..NL)` (R142). -/
def bitrevBody (r : Run) (s : State) : Except Refusal State :=
  match permuteLoop .dmem (logLength r.nl.toNat) r.nl.toNat 0 s.dmem with
  | .error e => .error e
  | .ok d => .ok (retire { s with dmem := d })

/-- `BITREV` (R142). -/
def execBitrev (s : State) : Host.Outcome State Fault Refusal := command .bitrev bitrevBody s

end Sys2Proof.Machine
end

