-- ==== Sys2Proof/Machine/Twiddle.lean ====
section
/-! DEFINITION. The power-series generator (R127) and the twiddle-factor table builder (spec/42_twiddle.md). -/

namespace Sys2Proof.Machine

/-- One iteration of `PSER`: `T[i] <- ACC; ACC <- fmul(ACC, G)` (R127). -/
def pserStep (c : Cfg) (g : Nat) (i : Nat) (acc : Nat) (t : Memory) : Nat × Memory :=
  (fmul c acc g, t.write i acc)

/-- `k` iterations of `PSER` from index `i` on, with `ACC = acc`. -/
def pserLoop (c : Cfg) (g : Nat) : Nat → Nat → Nat → Memory → Memory
  | 0, _, _, t => t
  | k + 1, i, acc, t => pserLoop c g k (i + 1) (pserStep c g i acc t).1 (pserStep c g i acc t).2

/-- `PSER g, k` (R127). -/
def pser (c : Cfg) (g : Nat) (k : Nat) (t : Memory) : Memory := pserLoop c g k 0 1 t

/-- The run of `BUILD_TW` (R156): the power series of `G` of length `h = NL div 2`, then its bit reversal on `m - 1`
bits. -/
def buildTwBody (r : Run) (s : State) : Except Refusal State :=
  match permuteLoop .tmem (logLength r.nl.toNat - 1) (halfLength r.nl.toNat) 0
      (pser s.cfg r.gen (halfLength r.nl.toNat) s.tmem) with
  | .error e => .error e
  | .ok t => .ok (retire { s with tmem := t })

/-- `BUILD_TW` (R156). -/
def execBuildTw (s : State) : Host.Outcome State Fault Refusal := command .buildTw buildTwBody s

end Sys2Proof.Machine
end

