-- ==== Sys2Proof/Machine/Dispatch.lean ====
section
/-! DEFINITION. The meaning of each instruction, one arm per constructor of `Instr`. -/

namespace Sys2Proof.Machine

/-- The meaning of an instruction in a state, each command as one atomic step from issue to retire (R14, R74). -/
def exec (i : Instr) (s : State) : Host.Outcome State Fault Refusal :=
  match i with
  | .buildTw => Sys2Proof.Machine.execBuildTw s
  | .ntt => Sys2Proof.Machine.execNtt s
  | .bitrev => Sys2Proof.Machine.execBitrev s
  | .srst rsv => Sys2Proof.Machine.execSrst rsv s

end Sys2Proof.Machine
end

