-- ==== Sys2Proof/Machine/Engine.lean ====
section
/-! DEFINITION. The engine while `STATE = BUSY`: a posted command runs in micro-operations (R187), with the fork-join
dispatch of R181 and R182 for `NTT`. -/

namespace Sys2Proof.Machine

/-- Issue of a posted command (R200): the checks, then the hidden state; its micro-operations follow one by one. -/
def postCommand (i : Instr) (s : State) : Host.Outcome State Fault Refusal :=
  command i (fun _ s' => .ok s') s

/-- The dispatch test (R181): the two children of a sub-problem of size `z` run as concurrent tasks. -/
def runsConcurrently (c : Cfg) (z : Nat) : Bool := decide (c.mcs ≤ z / 2)

/-- The task has reached phase `DONE` (R182). -/
def Task.isDone : Task → Bool
  | .done _ _ => true
  | _ => false

/-- The direction taken at a concurrent fork: the odd child when the head of the path says so. -/
def pathHead : List Bool → Bool
  | [] => false
  | b :: _ => b

/-- One step of a task (R173, R182): a descent, a base case, a step of a child, the join, or one butterfly of the
combine loop. The result is the task, the lane registers and `DMEM` after. -/
def taskStep (c : Cfg) (nl : Nat) (t : Memory) (lane : Lane) (d : Memory) :
    List Bool → Task → Except Refusal (Task × Lane × Memory)
  | _, .done o s => .ok (.done o s, lane, d)
  | _, .descend o s =>
    if nl / s ≤ 1 then .ok (.done o s, lane, d)
    else if nl / s = 2 then
      match bfly0Load c lane o (o + s) d with
      | .error r => .error r
      | .ok lane' => .ok (.done o s, lane', bflyStore c lane' o (o + s) d)
    else .ok (.join o s (runsConcurrently c (nl / s)) (.descend o (2 * s)) (.descend (o + s) (2 * s)), lane, d)
  | path, .join o s par even odd =>
    if even.isDone && odd.isDone then .ok (.combine o s 0, lane, d)
    else if even.isDone || (par && pathHead path && !odd.isDone) then
      match taskStep c nl t lane d path.tail odd with
      | .error r => .error r
      | .ok (odd', lane', d') => .ok (.join o s par even odd', lane', d')
    else
      match taskStep c nl t lane d path.tail even with
      | .error r => .error r
      | .ok (even', lane', d') => .ok (.join o s par even' odd, lane', d')
  | _, .combine o s j =>
    if j < nl / s / 2 then
      match bflyLoad c t (o + 2 * j * s) (o + 2 * j * s + s) j d with
      | .error r => .error r
      | .ok lane' => .ok (.combine o s (j + 1), lane', bflyStore c lane' (o + 2 * j * s) (o + 2 * j * s + s) d)
    else .ok (.done o s, lane, d)

/-- One micro-operation of the latched command on lane `lane`, or its retire when the last one has been performed
(R201, R204). -/
def microStep (lane : Nat) (path : List Bool) (r : Run) (s : State) : Host.Outcome State Fault Refusal :=
  match r.seq with
  | .series i =>
    if i < halfLength r.nl.toNat then
      .next { s with
        tmem := (pserStep s.cfg r.gen i r.acc s.tmem).2
        run := some { r with seq := .series (i + 1), acc := (pserStep s.cfg r.gen i r.acc s.tmem).1 } }
    else .next { s with run := some { r with seq := .permuteTable 0 } }
  | .permuteTable i =>
    if i < halfLength r.nl.toNat then
      match permuteStep .tmem (logLength r.nl.toNat - 1) i r.tmp s.tmem with
      | .error e => .refused e
      | .ok (tmp, m) => .next { s with tmem := m, run := some { r with seq := .permuteTable (i + 1), tmp := tmp } }
    else .next (retire s)
  | .permuteData i =>
    if i < r.nl.toNat then
      match permuteStep .dmem (logLength r.nl.toNat) i r.tmp s.dmem with
      | .error e => .refused e
      | .ok (tmp, m) => .next { s with dmem := m, run := some { r with seq := .permuteData (i + 1), tmp := tmp } }
    else .next (retire s)
  | .tasks t =>
    if t.isDone then .next (retire s)
    else
      match taskStep s.cfg r.nl.toNat s.tmem (r.lanes.getD lane Lane.clear) s.dmem path t with
      | .error e => .refused e
      | .ok (t', lane', d') =>
        .next { s with dmem := d', run := some { r with seq := .tasks t', lanes := r.lanes.set lane lane' } }

/-- The engine takes a step while `STATE = BUSY`, and none otherwise (R201). -/
def engineStep (lane : Nat) (path : List Bool) (s : State) : Host.Outcome State Fault Refusal :=
  match s.status.mode, s.run with
  | .busy, some r => microStep lane path r s
  | _, _ => .next s

end Sys2Proof.Machine
end

