-- ==== Sys2Proof/Machine/HostPort.lean ====
section
/-! DEFINITION. The host port (spec/20_memory.md): what each host operation does by `STATUS.STATE` (R62, R63, R71, R72,
R73), and what an event of the run does. -/

namespace Sys2Proof.Machine

/-- The operations the port cannot express (R60, R61), by name. -/
def portFault (c : Cfg) : HostOp → Option Fault
  | .regRead _ => none
  | .regWrite _ _ => none
  | .dRead i => if i < c.nmax then none else some (.indexOutsideSpace .dmem i)
  | .dWrite i v =>
    if i < c.nmax then (if v < 2 ^ c.w then none else some (.dataWiderThanPort v))
    else some (.indexOutsideSpace .dmem i)
  | .tRead i => if i < c.nmax / 2 then none else some (.indexOutsideSpace .tmem i)
  | .reset => none

/-- `RegRead(r)` (R62, R206). -/
def regRead (r : RegNum) (s : State) : State := answer (.reg r (regValue s r)) s

/-- `DRead(i)` (R62); a word without a value is refused (R36). -/
def dRead (i : Nat) (s : State) : Host.Outcome State Fault Refusal :=
  match wordAt .dmem s.dmem i with
  | .error r => .refused r
  | .ok v => .next (answer (.dmem i v) s)

/-- `TRead(i)` (R62), also at or above `TWLEN`; a word without a value is refused (R36). -/
def tRead (i : Nat) (s : State) : Host.Outcome State Fault Refusal :=
  match wordAt .tmem s.tmem i with
  | .error r => .refused r
  | .ok v => .next (answer (.tmem i v) s)

/-- `DWrite(i, v)` in `IDLE` (R63). -/
def dWrite (i : Nat) (v : Nat) (s : State) : State :=
  if v < s.cfg.p then { s with dmem := s.dmem.write i v } else faultEntry .nonCanon s

/-- How a command that a host write starts is run: to its retire at once (`call`, R14) or in micro-operations
(`post`, R187). `SRST` is no command: it acts at once either way (R205). -/
def runInstr (posted : Bool) (i : Instr) (s : State) : Host.Outcome State Fault Refusal :=
  match posted, i with
  | false, _ => exec i s
  | true, .srst rsv => exec (.srst rsv) s
  | true, i => postCommand i s

/-- `RegWrite(r, v)` in `IDLE` (R71, R206). -/
def regWriteIdle (posted : Bool) (r : RegNum) (v : Word32) (s : State) : Host.Outcome State Fault Refusal :=
  match decode r v with
  | .ok i => runInstr posted i s
  | .error (.illegalCommand _) => .next (faultEntry .illegalCmd s)
  | .error (.controlNoOperation _) => .next s
  | .error (.notAnInstructionRegister _) => .next (writeReg r v s)

/-- `RegWrite(r, v)` in `FAULT`: only `SRST` has an effect (R73). -/
def regWriteFault (r : RegNum) (v : Word32) (s : State) : Host.Outcome State Fault Refusal :=
  match decode r v with
  | .ok i => exec i s
  | .error _ => .next s

/-- A host operation in `IDLE` (R71). -/
def opIdle (posted : Bool) (op : HostOp) (s : State) : Host.Outcome State Fault Refusal :=
  match op with
  | .regRead r => .next (regRead r s)
  | .regWrite r v => regWriteIdle posted r v s
  | .dRead i => dRead i s
  | .dWrite i v => .next (dWrite i v s)
  | .tRead i => tRead i s
  | .reset => .next (powerOnReset s)

/-- A host operation in `FAULT` (R73). -/
def opFault (op : HostOp) (s : State) : Host.Outcome State Fault Refusal :=
  match op with
  | .regRead r => .next (regRead r s)
  | .regWrite r v => regWriteFault r v s
  | .dRead i => dRead i s
  | .dWrite _ _ => .next s
  | .tRead i => tRead i s
  | .reset => .next (powerOnReset s)

/-- The event that makes a host operation. -/
def opEvent (posted : Bool) (op : HostOp) : Event := if posted then .post op else .call op

/-- A host operation in `BUSY`: `RegRead(STATUS)` and the reset input act at once, everything else is held (R72,
R260). -/
def opBusy (posted : Bool) (op : HostOp) (s : State) : Host.Outcome State Fault Refusal :=
  match op with
  | .regRead r => if r = regStatus then .next (regRead r s) else .next (hold (opEvent posted op) s)
  | .reset => .next (powerOnReset s)
  | .regWrite _ _ => .next (hold (opEvent posted op) s)
  | .dRead _ => .next (hold (opEvent posted op) s)
  | .dWrite _ _ => .next (hold (opEvent posted op) s)
  | .tRead _ => .next (hold (opEvent posted op) s)

/-- A host operation, by the state of the block (R60, R71, R72, R73). -/
def hostOp (posted : Bool) (op : HostOp) (s : State) : Host.Outcome State Fault Refusal :=
  match portFault s.cfg op with
  | some f => .fault f
  | none =>
    match s.status.mode with
    | .idle => opIdle posted op s
    | .busy => opBusy posted op s
    | .fault => opFault op s

/-- What one event does. -/
def onEvent (e : Event) (s : State) : Host.Outcome State Fault Refusal :=
  match e with
  | .call op => hostOp false op s
  | .post op => hostOp true op s
  | .engine lane path => if lane < s.cfg.lanes then engineStep lane path s else .fault (.noSuchLane lane)

/-- With nothing waiting at the port a running command goes on by itself (R186) and an idle block waits (R37, R245):
lane 0 takes the step, the even child first. -/
def onQuiet (s : State) : Host.Outcome State Fault Refusal := engineStep 0 [] s

/-- The next event of the run is taken from the front of `inbox`. -/
def takeEvent (s : State) : Host.Outcome State Fault Refusal :=
  match s.inbox with
  | [] => onQuiet s
  | e :: rest => onEvent e { s with inbox := rest }

/-- The host operation by which a word of spec/opcode_table.json is issued. -/
def tableOp (nbits w : Nat) : HostOp := .regWrite (tableReg nbits w) (tableWord nbits w)

/-- Put a host operation, made as a blocking call, at the front of the inbox. -/
def putCall (op : HostOp) (s : State) : State := { s with inbox := .call op :: s.inbox }

end Sys2Proof.Machine
end

