-- ==== Sys2Proof/Machine/Step.lean ====
section
/-! DEFINITION. One step of the machine. A command is not fetched (R22): it exists only as a host write, so the step
takes the next event of the run, and the word of an instruction is placed as the next host write. -/

namespace Sys2Proof.Machine

/-- One step: the next event of the run, in the one total order of R74. -/
def step (s : State) : Host.Outcome State Fault Refusal := takeEvent s

/-- `s` with the word of a row of spec/opcode_table.json as the host's next operation, so that the very next step
runs it (notes/assumptions/4.md). -/
def State.withFetchWord (s : State) (nbits w : Nat) : State := putCall (tableOp nbits w) s

end Sys2Proof.Machine
end

