-- ==== Sys2Proof/Machine/Dataflow.lean ====
section
/-! DEFINITION. The small-step reading of `NTT` by data dependence alone (R183(d), R187): one bit "done" per butterfly, and
any enabled butterfly may be next. It admits every schedule of the fork-join dispatch and more. -/

namespace Sys2Proof.Machine

/-- The butterfly `(s, p)` of stage `s` at position `p` (R175): `s` is a stride and `p` the lower index of a pair. -/
def isButterfly (nl : Nat) (b : Nat × Nat) : Bool :=
  isPow2 b.1 && decide (b.1 ≤ nl / 2) && decide (b.2 < nl) && decide (b.2 / b.1 % 2 = 0)

/-- The butterfly of the stage before that wrote `D[x]`, for a butterfly of stride `s` (R183(d)). -/
def writerBefore (s x : Nat) : Nat × Nat := (2 * s, if x / (2 * s) % 2 = 0 then x else x - 2 * s)

/-- Not done, and the two butterflies whose results it reads are done; none are needed when `s = NL/2` (R183(d), R187). -/
def enabledButterfly (nl : Nat) (done : List (Nat × Nat)) (b : Nat × Nat) : Bool :=
  isButterfly nl b && !done.contains b &&
    (decide (b.1 = nl / 2) ||
      (done.contains (writerBefore b.1 b.2) && done.contains (writerBefore b.1 (b.2 + b.1))))

/-- Butterflies performed in the order given, from those already done; no result when one of them is not enabled. -/
def dataflowRun (c : Cfg) (t : Memory) (nl : Nat) :
    List (Nat × Nat) → List (Nat × Nat) → Memory → Option (Except Refusal Memory)
  | [], _, d => some (.ok d)
  | b :: rest, done, d =>
    if enabledButterfly nl done b then
      match bfly c t b.2 (b.2 + b.1) (b.2 / (2 * b.1)) d with
      | .error r => some (.error r)
      | .ok d' => dataflowRun c t nl rest (b :: done) d'
    else none

end Sys2Proof.Machine
end

