-- ==== Sys2Proof/Machine/Script.lean ====
section
/-! DEFINITION. The host script notation (R98) and its pseudo-lines (R99) as host operations. -/

namespace Sys2Proof.Machine

/-- `wr LEN, <n>`. -/
def lineWrLen (n : Nat) : HostOp := .regWrite regLen (BitVec.ofNat 32 n)

/-- `cmd BUILD_TW`, `cmd NTT`, `cmd BITREV`, and `srst` with `RSV = 0`: the write of the instruction's word. -/
def lineCmd (i : Instr) : HostOp := .regWrite (encodeReg i) (encode i)

/-- `cmd <hex>`. -/
def lineCmdHex (w : Nat) : HostOp := .regWrite regCmd (BitVec.ofNat 32 w)

/-- `srst`. -/
def lineSrst : HostOp := .regWrite regCtrl 0x00000001#32

/-- `rd <REG>`. -/
def lineRd (r : RegNum) : HostOp := .regRead r

/-- `load <v0>, <v1>, ...`: one `dwr` per value, from index `i` on (`i = 0` in R99). -/
def linesLoad : Nat → List Nat → List HostOp
  | _, [] => []
  | i, v :: vs => .dWrite i v :: linesLoad (i + 1) vs

/-- `dump <k>`: `drd 0` to `drd k-1`. -/
def linesDump (k : Nat) : List HostOp := (List.range k).map HostOp.dRead

/-- `eval <n>`. -/
def linesEval (n : Nat) : List HostOp := [lineWrLen n, lineCmd .buildTw, lineCmd .ntt, lineCmd .bitrev]

/-- `k` polls of `STATUS`; `wait` is as many as it takes until `STATE` is not `BUSY`. -/
def linesPoll (k : Nat) : List HostOp := List.replicate k (.regRead regStatus)

/-- A script put before what is already waiting, each line completing before the next starts (R98). -/
def runScript (ops : List HostOp) (s : State) : State := { s with inbox := ops.map Event.call ++ s.inbox }

end Sys2Proof.Machine
end

