-- ==== Sys2Proof/Safety.lean ====
section
/-! DEFINITION. The terms statements are made in: a run without a fault (R231), what a memory holds, the value of a
polynomial (R177), the invariants of the state (R26, R27, R33, R34, R35), and the states a command completes in. -/

namespace Sys2Proof.Machine

/-- No fault is recorded (R231). -/
def State.NoFault (s : State) : Prop := s.status.mode ≠ .fault

/-- `m` holds `a 0, ..., a (n-1)` at the indices `0, ..., n-1`. -/
def Memory.Holds (m : Memory) (n : Nat) (a : Nat → Nat) : Prop := ∀ k, k < n → m.read k = some (a k)

/-- `m'` reads as `m` at every index from `n` on. -/
def Memory.SameFrom (n : Nat) (m m' : Memory) : Prop := ∀ k, n ≤ k → m'.read k = m.read k

/-- Every word that has a value is canonical (R34). -/
def Memory.Canonical (p : Nat) (m : Memory) : Prop := ∀ x ∈ m, x.2 < p

/-- Every word that has a value lies in the address space `[0, n)` (R61). -/
def Memory.Within (n : Nat) (m : Memory) : Prop := ∀ x ∈ m, x.1 < n

/-- The value at `x` of the polynomial with the `n` coefficients `a` (R177). -/
def polyEval (c : Cfg) (n : Nat) (a : Nat → Nat) (x : Nat) : Nat :=
  (∑ k ∈ Finset.range n, a k * x ^ k) % c.p

/-- Entry `i` of the table for transforms of size `2^m` (R157). -/
def tableEntry (c : Cfg) (m i : Nat) : Nat := c.rootAt m ^ rev (m - 1) i % c.p

/-- `t` holds the table for transforms of size `2^m` (R35, R157). -/
def TableFor (c : Cfg) (m : Nat) (t : Memory) : Prop := t.Holds (2 ^ (m - 1)) (tableEntry c m)

/-- The block is idle and `LEN` holds `2^m`, within the memory: what every command asks for (R142, R156, R180). -/
structure Ready (s : State) (m : Nat) : Prop where
  idle : s.status.mode = .idle
  len : s.len.toNat = 2 ^ m
  capacity : m ≤ s.cfg.logNmax

/-- What `NTT` asks for besides the sequence: a table built for the same size (R180). -/
structure NttReady (s : State) (m : Nat) : Prop where
  ready : Ready s m
  twlen : 2 ^ m = 2 * s.twlen.toNat
  adicity : m ≤ s.cfg.twoAdicity
  table : TableFor s.cfg m s.tmem

/-- The state after a command on `DMEM` has retired with `DMEM` holding `d`: nothing else has changed (R204). -/
def doneWithData (s : State) (d : Memory) : State :=
  { s with dmem := d, status := s.status.retired, run := none }

/-- The state after `BUILD_TW` has retired with `TMEM` holding `t` (R156, R204). -/
def doneWithTable (s : State) (t : Memory) : State :=
  { s with tmem := t, twlen := s.len >>> 1, status := s.status.retired, run := none }

/-- `NTT` from `s` with `DMEM` holding `d` completes, changes nothing but `DMEM` and the flags, and leaves
`b 0, ..., b (2^m - 1)` in `D[0..2^m)`. -/
def NttGives (s : State) (m : Nat) (d : Memory) (b : Nat → Nat) : Prop :=
  ∃ e, exec .ntt { s with dmem := d } = .next (doneWithData s e) ∧ e.Holds (2 ^ m) b ∧
    Memory.SameFrom (2 ^ m) d e

/-- The event is the host operation `op`, made either way. -/
def Event.Makes (e : Event) (op : HostOp) : Prop := e = .call op ∨ e = .post op

/-- The memories keep their canonical form. -/
structure MemoryForm (s : State) : Prop where
  dmem : s.dmem.wf
  tmem : s.tmem.wf

/-- The flags and the hidden state (R26, R33). -/
structure FlagsInv (s : State) : Prop where
  err_iff : s.status.err.isSome = true ↔ s.status.mode = .fault
  done_idle : s.status.done = true → s.status.mode = .idle
  run_iff : s.run.isSome = true ↔ s.status.mode = .busy

/-- The legal values of `TWLEN` (R27). -/
def TwlenLegal (s : State) : Prop :=
  s.twlen = 0#32 ∨ ∃ m, 1 ≤ m ∧ m ≤ s.cfg.logNmax ∧ m ≤ s.cfg.twoAdicity ∧ s.twlen.toNat = 2 ^ (m - 1)

/-- The table invariant (R35): when `TWLEN = h >= 1`, the table for size `2h` is in `TMEM`. -/
def TableInv (s : State) : Prop :=
  ∀ m, 1 ≤ m → s.twlen.toNat = 2 ^ (m - 1) → TableFor s.cfg m s.tmem

/-- The exponent that entry `k` of the table has when the bit reversal on `b` bits has done the indices below `i`:
a pair is swapped at its smaller index (R156). -/
def midExponent (b i k : Nat) : Nat := if k < i ∨ rev b k < i then rev b k else k

/-- How far a running command has come: what is latched, and for `BUILD_TW` what `TMEM` holds so far (R127, R156). -/
def Progress (s : State) (r : Run) : Prop :=
  ∃ m, r.nl.toNat = 2 ^ m ∧ m ≤ s.cfg.logNmax ∧
    match r.seq with
    | .series i =>
      r.opl = 1#4 ∧ 1 ≤ m ∧ m ≤ s.cfg.twoAdicity ∧ r.gen = s.cfg.rootAt m ∧ i ≤ 2 ^ (m - 1) ∧
        r.acc = s.cfg.rootAt m ^ i % s.cfg.p ∧ s.tmem.Holds i (fun k => s.cfg.rootAt m ^ k % s.cfg.p)
    | .permuteTable i =>
      r.opl = 1#4 ∧ 1 ≤ m ∧ m ≤ s.cfg.twoAdicity ∧ i ≤ 2 ^ (m - 1) ∧
        s.tmem.Holds (2 ^ (m - 1)) (fun k => s.cfg.rootAt m ^ midExponent (m - 1) i k % s.cfg.p)
    | .permuteData _ => r.opl = 3#4 ∧ TableInv s
    | .tasks _ => r.opl = 2#4 ∧ TableInv s

/-- The invariant of the block: R27, R34, R35 and the widths of R61, with what a running command has done so far. -/
structure BlockInv (s : State) : Prop where
  form : MemoryForm s
  flags : FlagsInv s
  dmem_within : s.dmem.Within s.cfg.nmax
  tmem_within : s.tmem.Within (s.cfg.nmax / 2)
  dmem_canonical : s.dmem.Canonical s.cfg.p
  tmem_canonical : s.tmem.Canonical s.cfg.p
  twlen_legal : TwlenLegal s
  table : s.status.mode ≠ .busy → TableInv s
  progress : ∀ r, s.run = some r → Progress s r

/-- The engine's events of a schedule, one after the other (U7, R187). -/
def engineRun : List (Nat × List Bool) → State → Host.Outcome State Fault Refusal
  | [], s => .next s
  | (lane, path) :: rest, s =>
    match onEvent (.engine lane path) s with
    | .next s' => engineRun rest s'
    | .fault f => .fault f
    | .refused r => .refused r

end Sys2Proof.Machine
end

