-- ==== Sys2Proof/Certificates/Slice0/Obligations.lean ====
section
/-! DEFINITION. The statements for the provers, each formalising what its docstring cites of spec/. Statements quantify
over every state, so over every configuration, every order of host operations and every schedule. -/

open Sys2Proof Sys2Proof.Machine

/-! ## Encoding -/

/-- spec/30_encoding.md sections 2 and 4: a register write is an instruction exactly when it is that instruction's word
in that instruction's register; both directions of the round trip, for every value of every field. -/
def Obligations.DecodeAndEncodeAgree : Prop :=
  ∀ (r : RegNum) (w : Word32) (i : Instr), decode r w = .ok i ↔ r = encodeReg i ∧ w = encode i

/-- R95: which command words are illegal, that the decoder is total, that an illegal word issued in `IDLE` faults with
`ERR_ILLEGAL_CMD`, that the reserved bits of format K are ignored and the reserved registers are inert. -/
def Obligations.IllegalWordsFaultAndDecoderIsTotal : Prop :=
  (∀ w : Word32,
    ((fieldOp w = 0#4 ∨ 4 ≤ (fieldOp w).toNat ∨ fieldRsvC w ≠ 0#28) ↔
      decodeC w = .error (.illegalCommand w)) ∧
    (decodeC w = .error (.illegalCommand w) ∨ decodeC w = .ok .buildTw ∨ decodeC w = .ok .ntt ∨
      decodeC w = .ok .bitrev)) ∧
  (∀ (s : State) (w : Word32) (posted : Bool), s.status.mode = .idle →
    decodeC w = .error (.illegalCommand w) →
    hostOp posted (.regWrite regCmd w) s =
      .next { s with status := { mode := .fault, done := false, err := some .illegalCmd } }) ∧
  (∀ (s : State) (w w' : Word32) (posted : Bool), s.status.mode ≠ .busy → fieldSrst w = fieldSrst w' →
    hostOp posted (.regWrite regCtrl w) s = hostOp posted (.regWrite regCtrl w') s) ∧
  (∀ (s : State) (r : RegNum) (v : Word32) (posted : Bool), r = 6#3 ∨ r = 7#3 →
    regValue s r = 0#32 ∧ (s.status.mode ≠ .busy → hostOp posted (.regWrite r v) s = .next s))

/-- spec/30_encoding.md section 4 and spec/95_test_vectors.md section 2.6: words written out from the spec decode to the
instructions they stand for, and illegal words to none. -/
def Obligations.SpecWordsDecode : Prop :=
  decode 0#3 0x00000001#32 = .ok .buildTw ∧ decode 0#3 0x00000002#32 = .ok .ntt ∧
  decode 0#3 0x00000003#32 = .ok .bitrev ∧ decode 4#3 0x00000001#32 = .ok (.srst 0#31) ∧
  decode 4#3 0xFFFFFFFF#32 = .ok (.srst 0x7FFFFFFF#31) ∧
  decode 0#3 0x00000012#32 = .error (.illegalCommand 0x00000012#32) ∧
  decode 0#3 0x80000002#32 = .error (.illegalCommand 0x80000002#32)

/-- A step runs the decoded instruction (R74, R200; the event forms are the model's own, notes/assumptions/4.md and
6.md): made as a call it is `exec` of it, in every state of the block; a command posted in `IDLE` is issued; and a word
of the opcode table placed by `withFetchWord` is what the very next step runs. -/
def Obligations.StepRunsDecodedInstruction : Prop :=
  (∀ (s : State) (r : RegNum) (w : Word32) (i : Instr) (rest : List Event),
    s.inbox = .call (.regWrite r w) :: rest → decode r w = .ok i →
    step s = exec i { s with inbox := rest }) ∧
  (∀ (s : State) (w : Word32) (i : Instr) (rest : List Event),
    s.inbox = .post (.regWrite regCmd w) :: rest → decode regCmd w = .ok i → s.status.mode = .idle →
    step s = postCommand i { s with inbox := rest }) ∧
  (∀ (s : State) (nbits w : Nat) (i : Instr), decodeTableWord nbits w = some i →
    step (s.withFetchWord nbits w) = exec i s)

/-! ## Resets and registers -/

/-- R261: the state after power-on reset, asserted in any state. -/
def Obligations.PowerOnResetState : Prop :=
  ∀ (s : State) (posted : Bool), ∃ t, hostOp posted .reset s = .next t ∧
    t.len = 0#32 ∧ t.status = { mode := .idle, done := false, err := none } ∧
    regValue t regStatus = 0#32 ∧ t.twlen = 0#32 ∧ regValue t regMcs = BitVec.ofNat 32 s.cfg.mcs ∧
    regValue t regCmd = 0#32 ∧ regValue t regCtrl = 0#32 ∧ regValue t 6#3 = 0#32 ∧ regValue t 7#3 = 0#32 ∧
    t.run = none ∧ (∀ i, t.dmem.read i = none ∧ t.tmem.read i = none)

/-- The invariant of the block holds right after reset, whatever the configuration (R37); that `State.reset` is built
with the parameters `Cfg.atReset` is the model's choice (notes/assumptions/1.md). -/
def Obligations.ResetEstablishesInvariant : Prop :=
  (∀ c : Cfg, BlockInv (State.resetWith c)) ∧ BlockInv State.reset

/-- R262: the soft reset in `IDLE` and `FAULT`, `SRST` held in `BUSY`, and `NTT` faulting afterwards for every length
until a table is built. -/
def Obligations.SoftResetState : Prop :=
  (∀ (s : State) (rsv : BitVec 31), s.status.mode ≠ .busy →
    exec (.srst rsv) s = .next { s with
      len := 0#32, status := { mode := .idle, done := false, err := none }, twlen := 0#32 }) ∧
  (∀ (s : State) (rsv : BitVec 31), s.status.mode = .busy →
    exec (.srst rsv) s = .next (hold (.call (.regWrite regCtrl (encode (.srst rsv)))) s)) ∧
  (∀ s : State, s.status.mode = .idle → s.twlen = 0#32 →
    ∃ code, exec .ntt s = .next { s with status := { mode := .fault, done := false, err := some code } })

/-- spec/10_state.md section 3: the value of each register number and the fields of the `STATUS` word, with the number
of each `STATE` (R26) and of each fault (R221) written out. -/
def Obligations.RegisterMap : Prop :=
  (∀ s : State, regValue s 0#3 = 0#32 ∧ regValue s 1#3 = s.len ∧ regValue s 2#3 = s.status.word ∧
    regValue s 3#3 = s.twlen ∧ regValue s 4#3 = 0#32 ∧ regValue s 5#3 = BitVec.ofNat 32 s.cfg.mcs ∧
    regValue s 6#3 = 0#32 ∧ regValue s 7#3 = 0#32) ∧
  (∀ st : Status, st.word.extractLsb' 0 2 = st.mode.code ∧ st.word.extractLsb' 2 1 = BitVec.ofBool st.done ∧
    st.word.extractLsb' 3 1 = 0#1 ∧ st.word.extractLsb' 4 4 = st.errCode ∧ st.word.extractLsb' 8 24 = 0#24) ∧
  (∀ (d : Bool) (e : Option Err),
    (Status.word ⟨.idle, d, e⟩).extractLsb' 0 2 = 0#2 ∧ (Status.word ⟨.busy, d, e⟩).extractLsb' 0 2 = 1#2 ∧
    (Status.word ⟨.fault, d, e⟩).extractLsb' 0 2 = 2#2) ∧
  (∀ (m : Mode) (d : Bool),
    (Status.word ⟨m, d, none⟩).extractLsb' 4 4 = 0#4 ∧
    (Status.word ⟨m, d, some .illegalCmd⟩).extractLsb' 4 4 = 1#4 ∧
    (Status.word ⟨m, d, some .notPow2⟩).extractLsb' 4 4 = 2#4 ∧
    (Status.word ⟨m, d, some .capacity⟩).extractLsb' 4 4 = 3#4 ∧
    (Status.word ⟨m, d, some .lenRange⟩).extractLsb' 4 4 = 4#4 ∧
    (Status.word ⟨m, d, some .root⟩).extractLsb' 4 4 = 5#4 ∧
    (Status.word ⟨m, d, some .twiddleLen⟩).extractLsb' 4 4 = 6#4 ∧
    (Status.word ⟨m, d, some .nonCanon⟩).extractLsb' 4 4 = 7#4)

/-- spec/44_control.md section 5: what `RegWrite` does in `IDLE` to each register that takes no command. -/
def Obligations.RegisterWritesInIdle : Prop :=
  ∀ (s : State) (v : Word32) (posted : Bool), s.status.mode = .idle →
    hostOp posted (.regWrite regLen v) s = .next { s with len := v } ∧
    (∀ r : RegNum, r = 2#3 ∨ r = 3#3 ∨ r = 5#3 ∨ r = 6#3 ∨ r = 7#3 →
      hostOp posted (.regWrite r v) s = .next s) ∧
    (fieldSrst v = 0#1 → hostOp posted (.regWrite regCtrl v) s = .next s) ∧
    (fieldSrst v = 1#1 → hostOp posted (.regWrite regCtrl v) s = .next { s with
      len := 0#32, status := { mode := .idle, done := false, err := none }, twlen := 0#32 })

/-! ## Host access to the memories -/

/-- R62: reads in `IDLE` and `FAULT` return the word or the register value and change nothing else; a word without a
value is refused. -/
def Obligations.ReadsReturnAndChangeNothing : Prop :=
  ∀ (s : State) (posted : Bool), s.status.mode ≠ .busy →
    (∀ r, hostOp posted (.regRead r) s = .next { s with replies := .reg r (regValue s r) :: s.replies }) ∧
    (regValue s 0#3 = 0#32 ∧ regValue s 1#3 = s.len ∧ regValue s 2#3 = s.status.word ∧
      regValue s 3#3 = s.twlen ∧ regValue s 4#3 = 0#32 ∧ regValue s 5#3 = BitVec.ofNat 32 s.cfg.mcs ∧
      regValue s 6#3 = 0#32 ∧ regValue s 7#3 = 0#32) ∧
    (∀ i v, i < s.cfg.nmax → s.dmem.read i = some v →
      hostOp posted (.dRead i) s = .next { s with replies := .dmem i v :: s.replies }) ∧
    (∀ i v, i < s.cfg.nmax / 2 → s.tmem.read i = some v →
      hostOp posted (.tRead i) s = .next { s with replies := .tmem i v :: s.replies }) ∧
    (∀ i, i < s.cfg.nmax → s.dmem.read i = none →
      hostOp posted (.dRead i) s = .refused (.wordWithoutValue .dmem i)) ∧
    (∀ i, i < s.cfg.nmax / 2 → s.tmem.read i = none →
      hostOp posted (.tRead i) s = .refused (.wordWithoutValue .tmem i))

/-- R63: `DWrite` by the state of the block: a canonical word is stored and nothing else changes, a non-canonical one
faults and is not stored; ignored in `FAULT`, held in `BUSY`. -/
def Obligations.DataWriteChecksCanonical : Prop :=
  ∀ (s : State) (posted : Bool) (i v : Nat), i < s.cfg.nmax → v < 2 ^ s.cfg.w →
    (s.status.mode = .idle → v < s.cfg.p → ∃ d, hostOp posted (.dWrite i v) s = .next { s with dmem := d } ∧
      d.read i = some v ∧ ∀ k, k ≠ i → d.read k = s.dmem.read k) ∧
    (s.status.mode = .idle → s.cfg.p ≤ v → hostOp posted (.dWrite i v) s =
      .next { s with status := { mode := .fault, done := false, err := some .nonCanon } }) ∧
    (s.status.mode = .fault → hostOp posted (.dWrite i v) s = .next s) ∧
    (s.status.mode = .busy → hostOp posted (.dWrite i v) s = .next (hold (opEvent posted (.dWrite i v)) s))

/-- spec/20_memory.md section 3: in `BUSY` a read of `STATUS` returns `STATE = BUSY`, `DONE = 0`, `ERR = 0` at once and
every other operation the port can express, but the reset input, is held: it joins the end of the held operations and
changes nothing else. -/
def Obligations.BusyHoldsHostOperations : Prop :=
  ∀ (s : State) (r : Run) (posted : Bool), FlagsInv s → s.status.mode = .busy → s.run = some r →
    hostOp posted (.regRead regStatus) s =
      .next { s with replies := .reg regStatus 0x00000001#32 :: s.replies } ∧
    ∀ op, op ≠ .reset → op ≠ .regRead regStatus → portFault s.cfg op = none →
      hostOp posted op s = .next { s with run := some { r with held := r.held ++ [opEvent posted op] } }

/-! ## The commands -/

/-- A command word outside `IDLE` (R72, R73): ignored in `FAULT`, held in `BUSY`. -/
def Obligations.CommandsOutsideIdle : Prop :=
  ∀ (i : Instr) (s : State), i = .buildTw ∨ i = .ntt ∨ i = .bitrev →
    (s.status.mode = .fault → exec i s = .next s) ∧
    (s.status.mode = .busy → exec i s = .next (hold (.call (.regWrite regCmd (encode i))) s))

/-- R157: `BUILD_TW` with `LEN = 2^m` completes, changes nothing but `T[0..2^(m-1))`, `TWLEN` and the flags, and leaves
the bit-reversed power series of `ROOT[m]`. -/
def Obligations.BuildTwBuildsTheTable : Prop :=
  ∀ (s : State) (m : Nat), s.cfg.Valid → Ready s m → 1 ≤ m → m ≤ s.cfg.twoAdicity →
    ∃ t, exec .buildTw s = .next (doneWithTable s t) ∧
      (doneWithTable s t).twlen.toNat = 2 ^ m / 2 ∧
      (∀ i, i < 2 ^ m / 2 → t.read i = some (s.cfg.rootAt m ^ rev (m - 1) i % s.cfg.p)) ∧
      (∀ i, i < 2 ^ m / 2 → t.read (rev (m - 1) i) = some (s.cfg.rootAt m ^ i % s.cfg.p)) ∧
      t.read 0 = some 1 ∧
      (2 ≤ m → t.read 1 = some (s.cfg.rootAt m ^ (2 ^ m / 4) % s.cfg.p) ∧
        Cfg.PrimitiveRoot s.cfg.p (s.cfg.rootAt m ^ (2 ^ m / 4) % s.cfg.p) 2) ∧
      Memory.SameFrom (2 ^ m / 2) s.tmem t

/-- R177: `NTT` with a table for its size completes, changes nothing but `D[0..n)` and the flags, and leaves in `D[k]`
the value of the polynomial at `g^(rev_m(k))`. -/
def Obligations.NttEvaluatesPolynomial : Prop :=
  ∀ (s : State) (m : Nat) (c : Nat → Nat), s.cfg.Valid → NttReady s m → s.dmem.Holds (2 ^ m) c →
    (∀ k, k < 2 ^ m → c k < s.cfg.p) →
    ∃ d, exec .ntt s = .next (doneWithData s d) ∧
      (∀ k, k < 2 ^ m → d.read k = some (polyEval s.cfg (2 ^ m) c (s.cfg.rootAt m ^ rev m k))) ∧
      Memory.SameFrom (2 ^ m) s.dmem d

/-- R178: `NTT` then `BITREV` with the same `LEN` leaves the evaluations in natural order. -/
def Obligations.NttThenBitrevNaturalOrder : Prop :=
  ∀ (s : State) (m : Nat) (c : Nat → Nat), s.cfg.Valid → NttReady s m → s.dmem.Holds (2 ^ m) c →
    (∀ k, k < 2 ^ m → c k < s.cfg.p) →
    ∃ t d, exec .ntt s = .next t ∧ exec .bitrev t = .next (doneWithData t d) ∧
      ∀ k, k < 2 ^ m → d.read k = some (polyEval s.cfg (2 ^ m) c (s.cfg.rootAt m ^ k))

/-- R179: the transform is linear; `D[0]` is the sum of the coefficients and `D[1]` the value at `-1`; the all-zero
sequence is a fixed point; the transforms of a lone constant term and of a constant sequence. -/
def Obligations.NttConsequences : Prop :=
  ∀ (s : State) (m : Nat), s.cfg.Valid → NttReady s m →
    (∀ d d' d'' a a' b b', d.Holds (2 ^ m) a → d'.Holds (2 ^ m) a' →
      (∀ k, k < 2 ^ m → a k < s.cfg.p ∧ a' k < s.cfg.p) →
      d''.Holds (2 ^ m) (fun k => fadd s.cfg (a k) (a' k)) → NttGives s m d b → NttGives s m d' b' →
      NttGives s m d'' (fun k => fadd s.cfg (b k) (b' k))) ∧
    (∀ d d' a b v, d.Holds (2 ^ m) a → (∀ k, k < 2 ^ m → a k < s.cfg.p) → v < s.cfg.p →
      d'.Holds (2 ^ m) (fun k => fmul s.cfg v (a k)) → NttGives s m d b →
      NttGives s m d' (fun k => fmul s.cfg v (b k))) ∧
    (∀ d a b, d.Holds (2 ^ m) a → (∀ k, k < 2 ^ m → a k < s.cfg.p) → NttGives s m d b →
      b 0 = (∑ k ∈ Finset.range (2 ^ m), a k) % s.cfg.p ∧
      b 1 = polyEval s.cfg (2 ^ m) a (s.cfg.p - 1)) ∧
    (∀ d, d.Holds (2 ^ m) (fun _ => 0) → NttGives s m d (fun _ => 0)) ∧
    (∀ d v, v < s.cfg.p → d.Holds (2 ^ m) (fun k => if k = 0 then v else 0) → NttGives s m d (fun _ => v)) ∧
    (∀ d v, v < s.cfg.p → d.Holds (2 ^ m) (fun _ => v) →
      NttGives s m d (fun k => if k = 0 then fmul s.cfg (2 ^ m % s.cfg.p) v else 0))

/-- spec/41_bitrev.md section 1: the unit applies the permutation to either memory, for every width. -/
def Obligations.PermutationUnitReversesIndices : Prop :=
  ∀ (sp : Space) (m : Nat) (x : Nat → Nat) (mem : Memory), mem.Holds (2 ^ m) x →
    ∃ mem', permuteLoop sp m (2 ^ m) 0 mem = .ok mem' ∧
      (∀ i, i < 2 ^ m → mem'.read (rev m i) = some (x i)) ∧
      (∀ i, i < 2 ^ m → mem'.read i = some (x (rev m i))) ∧ Memory.SameFrom (2 ^ m) mem mem'

/-- spec/41_bitrev.md section 3: `BITREV` completes on any words, canonical or not, changes nothing but `D[0..n)` and the
flags, and moves the word at `i` to `rev_m(i)`. -/
def Obligations.BitrevPermutesSequence : Prop :=
  ∀ (s : State) (m : Nat) (x : Nat → Nat), Ready s m → s.dmem.Holds (2 ^ m) x →
    ∃ d, exec .bitrev s = .next (doneWithData s d) ∧
      (∀ i, i < 2 ^ m → d.read (rev m i) = some (x i)) ∧ Memory.SameFrom (2 ^ m) s.dmem d

/-- R143: two `BITREV` commands in a row with the same `LEN` restore the sequence. -/
def Obligations.BitrevTwiceRestores : Prop :=
  ∀ (s : State) (m : Nat) (x : Nat → Nat), Ready s m → s.dmem.Holds (2 ^ m) x →
    ∃ t u, exec .bitrev s = .next t ∧ exec .bitrev t = .next u ∧
      ∀ i, u.dmem.read i = s.dmem.read i

/-- R36 (refused by U1): a command whose range includes a word without a value is refused, and the refusal names the
first such word. -/
def Obligations.CommandOnMissingWordIsRefused : Prop :=
  ∀ (s : State) (m k : Nat) (i : Instr), Ready s m → i = .bitrev ∨ (i = .ntt ∧ 2 ^ m = 2 * s.twlen.toNat) →
    k < 2 ^ m → s.dmem.read k = none → (∀ l, l < k → (s.dmem.read l).isSome = true) →
    exec i s = .refused (.wordWithoutValue .dmem k)

/-- R31: the words `D[n..NMAX)` are never read or written by a command of length `n`: two runs that differ only there
have the same outcome, leave the same words in `D[0..n)`, and each keeps its own words above. -/
def Obligations.CommandsTouchOnlyTheirSequence : Prop :=
  ∀ (s : State) (m : Nat) (i : Instr) (d : Memory), Ready s m → i = .ntt ∨ i = .bitrev →
    (∀ k, k < 2 ^ m → d.read k = s.dmem.read k) →
    match exec i s, exec i { s with dmem := d } with
    | .next t, .next t' =>
      t'.status = t.status ∧ (∀ k, k < 2 ^ m → t'.dmem.read k = t.dmem.read k) ∧
        Memory.SameFrom (2 ^ m) s.dmem t.dmem ∧ Memory.SameFrom (2 ^ m) d t'.dmem
    | .refused r, .refused r' => r' = r
    | _, _ => False

/-! ## Checks and faults -/

/-- R223: the command check, in its fixed order. -/
def Obligations.CommandCheckOrder : Prop :=
  ∀ (c : Cfg) (v len twlen : Word32),
    ((v ≠ 1#32 ∧ v ≠ 2#32 ∧ v ≠ 3#32) → check c v len twlen = some .illegalCmd) ∧
    ((v = 1#32 ∨ v = 2#32 ∨ v = 3#32) →
      ((∀ m, len.toNat ≠ 2 ^ m) → check c v len twlen = some .notPow2) ∧
      (∀ m, len.toNat = 2 ^ m →
        (c.nmax < 2 ^ m → check c v len twlen = some .capacity) ∧
        (2 ^ m ≤ c.nmax →
          (v = 1#32 → (m = 0 → check c v len twlen = some .lenRange) ∧
            (1 ≤ m → c.twoAdicity < m → check c v len twlen = some .root) ∧
            (1 ≤ m → m ≤ c.twoAdicity → check c v len twlen = none)) ∧
          (v = 2#32 → (2 ^ m ≠ 2 * twlen.toNat → check c v len twlen = some .twiddleLen) ∧
            (2 ^ m = 2 * twlen.toNat → check c v len twlen = none)) ∧
          (v = 3#32 → check c v len twlen = none)))) ∧
    (c.logNmax ≤ 31 → twlen.toNat ≤ c.nmax / 2 → 2 * twlen.toNat < 2 ^ 32)

/-- R230: fault entry: `ERR`, `STATE`, `DONE` are written and the write that raised the fault has no other effect. -/
def Obligations.FaultEntryIsPrecise : Prop :=
  (∀ (s : State) (posted : Bool) (v : Word32) (code : Err), s.status.mode = .idle →
    check s.cfg v s.len s.twlen = some code →
    hostOp posted (.regWrite regCmd v) s =
      .next { s with status := { mode := .fault, done := false, err := some code } }) ∧
  (∀ (s : State) (i : Instr) (code : Err), s.status.mode = .idle →
    checkLength s.cfg i s.len s.twlen = some code → i = .buildTw ∨ i = .ntt ∨ i = .bitrev →
    exec i s = .next { s with status := { mode := .fault, done := false, err := some code } }) ∧
  (∀ (s : State) (posted : Bool) (i v : Nat), s.status.mode = .idle → i < s.cfg.nmax → v < 2 ^ s.cfg.w →
    s.cfg.p ≤ v → hostOp posted (.dWrite i v) s =
      .next { s with status := { mode := .fault, done := false, err := some .nonCanon } })

/-- R222: only a command word and a `DWrite`, and only in `IDLE`, can raise a fault, and with which codes. -/
def Obligations.OnlyChecksRaiseFaults : Prop :=
  ∀ (s t : State) (e : Event), onEvent e s = .next t → s.NoFault → ¬ t.NoFault →
    s.status.mode = .idle ∧
    ((∃ v code, e.Makes (.regWrite regCmd v) ∧ check s.cfg v s.len s.twlen = some code ∧
        code ≠ .nonCanon ∧ t = { s with status := { mode := .fault, done := false, err := some code } }) ∨
      (∃ i v, e.Makes (.dWrite i v) ∧ s.cfg.p ≤ v ∧
        t = { s with status := { mode := .fault, done := false, err := some .nonCanon } }))

/-- R231: in `FAULT` reads work, every event but `SRST` and the reset input changes nothing (but the replies), and
those two leave `FAULT`. -/
def Obligations.FaultIsSticky : Prop :=
  (∀ (s t : State) (e : Event), s.status.mode = .fault → onEvent e s = .next t →
    e.Makes .reset ∨ (∃ v, e.Makes (.regWrite regCtrl v) ∧ fieldSrst v = 1#1) ∨
      t = { s with replies := t.replies }) ∧
  (∀ (s : State) (posted : Bool) (r : RegNum), s.status.mode = .fault →
    hostOp posted (.regRead r) s = .next { s with replies := .reg r (regValue s r) :: s.replies }) ∧
  (∀ (s : State) (posted : Bool) (i v : Nat), s.status.mode = .fault → i < s.cfg.nmax →
    s.dmem.read i = some v → hostOp posted (.dRead i) s = .next { s with replies := .dmem i v :: s.replies }) ∧
  (∀ (s : State) (posted : Bool) (i v : Nat), s.status.mode = .fault → i < s.cfg.nmax / 2 →
    s.tmem.read i = some v → hostOp posted (.tRead i) s = .next { s with replies := .tmem i v :: s.replies }) ∧
  (∀ (s : State) (posted : Bool) (v : Word32), s.status.mode = .fault → fieldSrst v = 1#1 →
    ∃ t, hostOp posted (.regWrite regCtrl v) s = .next t ∧ t.NoFault ∧ t.status.err = none) ∧
  (∀ (s : State) (posted : Bool), ∃ t, hostOp posted .reset s = .next t ∧ t.NoFault ∧ t.status.err = none)

/-! ## Issue, retire and the small-step reading -/

/-- spec/44_control.md section 1: a posted command whose checks pass is issued: `STATE = BUSY`, `DONE = 0`, `OPL` and `NL`
latched, no data touched. `BUILD_TW` asks for no word of `DMEM` (R263). -/
def Obligations.IssueLatchesOperands : Prop :=
  ∀ (s : State) (m : Nat) (i : Instr), s.cfg.Valid → Ready s m →
    (i = .buildTw ∧ 1 ≤ m ∧ m ≤ s.cfg.twoAdicity) ∨ (i = .bitrev ∧ ∃ x, s.dmem.Holds (2 ^ m) x) ∨
      (i = .ntt ∧ NttReady s m ∧ ∃ x, s.dmem.Holds (2 ^ m) x) →
    ∃ r, hostOp true (.regWrite regCmd (encode i)) s =
        .next { s with status := { s.status with mode := .busy, done := false }, run := some r } ∧
      r.opl = opcode i ∧ r.nl = s.len ∧ r.held = []

/-- spec/44_control.md section 3: when an engine event ends the command, `TWLEN` is written for `BUILD_TW` only,
`STATE = IDLE`, `DONE = 1`, the hidden state is gone, the held operations come first in issue order, and nothing else
has changed. -/
def Obligations.RetireReleasesHeldOperations : Prop :=
  ∀ (s t : State) (r : Run) (lane : Nat) (path : List Bool), s.status.mode = .busy → s.run = some r →
    onEvent (.engine lane path) s = .next t → t.status.mode ≠ .busy →
    t = { s with
      twlen := if r.opl = 1#4 then r.nl >>> 1 else s.twlen
      status := { s.status with mode := .idle, done := true }
      run := none
      inbox := r.held ++ s.inbox }

/-- spec/43_transform.md sections 2, 3 and 7: the dispatch test, the two base cases, the join that blocks the parent while
one child takes its own step (the even child first when the two are not concurrent, else by the path), and the combine
loop in ascending `j`. -/
def Obligations.ForkAndJoinDispatch : Prop :=
  ∀ (c : Cfg) (nl : Nat) (t d : Memory) (lane : Lane) (path : List Bool) (o s : Nat),
    (2 < nl / s → taskStep c nl t lane d path (.descend o s) =
      .ok (.join o s (decide (c.mcs ≤ nl / s / 2)) (.descend o (2 * s)) (.descend (o + s) (2 * s)), lane, d)) ∧
    (∀ t' lane' d', nl / s = 2 → taskStep c nl t lane d path (.descend o s) = .ok (t', lane', d') →
      t' = .done o s ∧ bfly0Load c lane o (o + s) d = .ok lane' ∧ bfly0 c o (o + s) d = .ok d') ∧
    (nl / s ≤ 1 → taskStep c nl t lane d path (.descend o s) = .ok (.done o s, lane, d)) ∧
    (∀ par even odd, even.isDone = true → odd.isDone = true →
      taskStep c nl t lane d path (.join o s par even odd) = .ok (.combine o s 0, lane, d)) ∧
    (∀ par even odd t' lane' d', even.isDone = false ∨ odd.isDone = false →
      taskStep c nl t lane d path (.join o s par even odd) = .ok (t', lane', d') →
      (∃ even', t' = .join o s par even' odd ∧ even.isDone = false ∧
        (par = false ∨ pathHead path = false ∨ odd.isDone = true) ∧
        taskStep c nl t lane d path.tail even = .ok (even', lane', d')) ∨
      (∃ odd', t' = .join o s par even odd' ∧ odd.isDone = false ∧
        (even.isDone = true ∨ (par = true ∧ pathHead path = true)) ∧
        taskStep c nl t lane d path.tail odd = .ok (odd', lane', d'))) ∧
    (∀ j t' lane' d', taskStep c nl t lane d path (.combine o s j) = .ok (t', lane', d') →
      (j < nl / s / 2 ∧ t' = .combine o s (j + 1) ∧
        bflyLoad c t (o + 2 * j * s) (o + 2 * j * s + s) j d = .ok lane' ∧
        bfly c t (o + 2 * j * s) (o + 2 * j * s + s) j d = .ok d') ∨
      (nl / s / 2 ≤ j ∧ t' = .done o s ∧ lane' = lane ∧ d' = d))

/-- R184, R186, R14: a posted command, under every schedule of engine events, ends after finitely many of them in the
very state the atomic reading gives. -/
def Obligations.EveryScheduleReachesAtomicResult : Prop :=
  ∀ (s s0 : State) (i : Instr), s.cfg.Valid → BlockInv s → s.status.mode = .idle →
    hostOp true (.regWrite (encodeReg i) (encode i)) s = .next s0 → s0.status.mode = .busy →
    ∃ N, ∀ sched : List (Nat × List Bool), N ≤ sched.length → (∀ x ∈ sched, x.1 < s.cfg.lanes) →
      ∃ t, engineRun sched s0 = .next t ∧ exec i s = .next t

/-- R184 and WF's concurrency invariance: no result depends on `MIN_CONCURRENT_SIZE` or `LANES`. -/
def Obligations.ConcurrencyParametersInvisible : Prop :=
  ∀ (s : State) (i : Instr) (k l : Nat),
    exec i { s with cfg := { s.cfg with mcs := k, lanes := l } } =
      match exec i s with
      | .next t => .next { t with cfg := { t.cfg with mcs := k, lanes := l } }
      | .fault f => .fault f
      | .refused r => .refused r

/-- R175: the stage form and the recursive form leave the same memory. -/
def Obligations.StageFormEqualsRecursiveForm : Prop :=
  ∀ (c : Cfg) (t d : Memory) (m : Nat) (a b : Nat → Nat), 1 < c.p → 1 ≤ m → d.wf →
    d.Holds (2 ^ m) a → (∀ k, k < 2 ^ m → a k < c.p) →
    t.Holds (2 ^ (m - 1)) b → (∀ k, k < 2 ^ (m - 1) → b k < c.p) → b 0 = 1 →
    nttStages c t (2 ^ m) m (2 ^ m / 2) d = nttSub c t (2 ^ m) m 0 1 d

/-- R184, R183(d), R187: every order of the butterflies that respects their dependences ends in the same memory, and a
run that performs them all performs exactly `(n/2) * log2 n` of them (R186). -/
def Obligations.EveryDependenceOrderGivesSameResult : Prop :=
  ∀ (c : Cfg) (t d : Memory) (m : Nat) (a b : Nat → Nat) (picks : List (Nat × Nat))
    (r : Except Refusal Memory), 1 < c.p → 1 ≤ m → d.wf →
    d.Holds (2 ^ m) a → (∀ k, k < 2 ^ m → a k < c.p) →
    t.Holds (2 ^ (m - 1)) b → (∀ k, k < 2 ^ (m - 1) → b k < c.p) → b 0 = 1 →
    dataflowRun c t (2 ^ m) picks [] d = some r →
    picks.length ≤ 2 ^ m / 2 * m ∧
    (picks.length = 2 ^ m / 2 * m → r = nttSub c t (2 ^ m) m 0 1 d)

/-- R173, R174, R183(a): a sub-transform changes its own elements and no other; what it leaves there, and whether and
with what it is refused, depends on its own elements and on the first half of its size of the table alone; and the two
children of a sub-problem act on disjoint elements. -/
def Obligations.SubTransformFootprint : Prop :=
  (∀ (c : Cfg) (t d d' : Memory) (nl f o s : Nat), nl / s = 2 ^ f → nttSub c t nl f o s d = .ok d' →
    ∀ i, (∀ k, k < nl / s → i ≠ o + k * s) → d'.read i = d.read i) ∧
  (∀ (c : Cfg) (t u d e : Memory) (nl f o s : Nat), nl / s = 2 ^ f →
    (∀ j, j < nl / s / 2 → u.read j = t.read j) → (∀ k, k < nl / s → e.read (o + k * s) = d.read (o + k * s)) →
    match nttSub c t nl f o s d, nttSub c u nl f o s e with
    | .ok d', .ok e' => ∀ k, k < nl / s → e'.read (o + k * s) = d'.read (o + k * s)
    | .error r, .error r' => r' = r
    | _, _ => False) ∧
  (∀ o s k k' : Nat, 0 < s → o + k * (2 * s) ≠ (o + s) + k' * (2 * s))

/-! ## Invariants and whole-machine rules -/

/-- Every step keeps the memories in canonical form (the model's own form, notes/assumptions/2.md). -/
def Obligations.StepKeepsMemoryForm : Prop :=
  ∀ s t : State, MemoryForm s → step s = .next t → MemoryForm t

/-- R26, R33: every step keeps `ERR != 0` exactly in `FAULT`, `DONE = 1` only in `IDLE`, and the hidden state exactly in
`BUSY`. -/
def Obligations.StepKeepsFlagsInvariant : Prop :=
  ∀ s t : State, FlagsInv s → step s = .next t → FlagsInv t

/-- R27, R34, R35, R61: every step keeps the invariant of the block: canonical words within their memories, a legal
`TWLEN`, and the table for `2 * TWLEN` in `TMEM` whenever the block is not busy. -/
def Obligations.StepKeepsBlockInvariant : Prop :=
  ∀ s t : State, s.cfg.Valid → BlockInv s → step s = .next t → BlockInv t

/-- R5, R29: no step changes a construction parameter, so `MCS` always reads the same. -/
def Obligations.ConfigurationNeverChanges : Prop :=
  ∀ s t : State, step s = .next t → t.cfg = s.cfg ∧ regValue t regMcs = regValue s regMcs

/-- R32, R78: `TMEM` is written by `BUILD_TW` alone (and loses its values at power-on reset). -/
def Obligations.OnlyBuildTwWritesTable : Prop :=
  ∀ (s t : State) (e : Event), BlockInv s → onEvent e s = .next t → t.tmem ≠ s.tmem →
    e.Makes .reset ∨ (s.status.mode = .idle ∧ e = .call (.regWrite regCmd 1#32)) ∨
      (s.status.mode = .busy ∧ ∃ lane path r, e = .engine lane path ∧ s.run = some r ∧ r.opl = 1#4)

/-- R25: `LEN` is written by `RegWrite(1, v)` in `IDLE` and by the two resets, and by no command. -/
def Obligations.LenWriters : Prop :=
  ∀ (s t : State) (e : Event), onEvent e s = .next t → t.len ≠ s.len →
    (∃ v, e.Makes (.regWrite regLen v) ∧ s.status.mode = .idle ∧ t.len = v) ∨
    (t.len = 0#32 ∧ (e.Makes .reset ∨ ∃ v, e.Makes (.regWrite regCtrl v) ∧ fieldSrst v = 1#1))

/-- R27: `TWLEN` is written by the retire of `BUILD_TW` and by the two resets only. -/
def Obligations.TwlenWriters : Prop :=
  ∀ (s t : State) (e : Event), onEvent e s = .next t → t.twlen ≠ s.twlen →
    (t.twlen = 0#32 ∧ (e.Makes .reset ∨ ∃ v, e.Makes (.regWrite regCtrl v) ∧ fieldSrst v = 1#1)) ∨
    (s.status.mode = .idle ∧ e = .call (.regWrite regCmd 1#32) ∧ t.twlen = s.len >>> 1) ∨
    (s.status.mode = .busy ∧ ∃ lane path r, e = .engine lane path ∧ s.run = some r ∧ r.opl = 1#4 ∧
      t.twlen = r.nl >>> 1 ∧ t.run = none)

/-- R37, R231, R245: nothing happens to an idle or faulted block by itself. That a step with an empty inbox answers the
same state is the model's choice of how such a block waits (notes/assumptions/4.md, DESIGN CHOICE). -/
def Obligations.QuietBlockWaits : Prop :=
  ∀ s : State, s.inbox = [] → s.status.mode ≠ .busy → step s = .next s

/-! ## The kernel and the micro-operations -/

/-- R121: `FADD` by comparison with `P` on the full sum, and its corner cases. -/
def Obligations.FaddResult : Prop :=
  ∀ (c : Cfg) (a b : Nat), c.Valid → a < c.p → b < c.p →
    fadd c a b = (a + b) % c.p ∧ fadd c a b = (if c.p ≤ a + b then a + b - c.p else a + b) ∧
    fadd c a b < c.p ∧ fadd c a 0 = a ∧ (a ≠ 0 → fadd c a (c.p - a) = 0) ∧
    fadd c (c.p - 1) (c.p - 1) = c.p - 2 ∧ a + b ≤ 2 * c.p - 2 ∧ 2 * c.p - 2 < 2 ^ (c.w + 1) ∧
    fadd (Cfg.t17 1 1) 9 13 = 5

/-- R122: `FSUB` on integers, by comparison, and its corner cases. -/
def Obligations.FsubResult : Prop :=
  ∀ (c : Cfg) (a b : Nat), c.Valid → a < c.p → b < c.p →
    ((fsub c a b : Nat) : Int) = ((a : Int) - b) % c.p ∧ fsub c a b = (if b ≤ a then a - b else a + c.p - b) ∧
    fsub c a b < c.p ∧ fsub c a a = 0 ∧ (b ≠ 0 → fsub c 0 b = c.p - b) ∧ fsub c 0 0 = 0 ∧
    fsub c 0 1 = c.p - 1 ∧ fsub (Cfg.t17 1 1) 4 6 = 15

/-- R123: `FMUL` on the full product, and its corner cases. -/
def Obligations.FmulResult : Prop :=
  ∀ (c : Cfg) (a b : Nat), c.Valid → a < c.p → b < c.p →
    fmul c a b = a * b % c.p ∧ a * b < 2 ^ (2 * c.w) ∧ fmul c a b < c.p ∧ fmul c a 0 = 0 ∧ fmul c a 1 = a ∧
    fmul c (c.p - 1) (c.p - 1) = 1 ∧ fmul c (c.p - 1) a = fsub c 0 a ∧
    (fmul c a b = 0 ↔ a = 0 ∨ b = 0) ∧ fmul (Cfg.t17 1 1) 13 15 = 8

/-- spec/40_field_kernel.md section 3: the laws of the field on canonical representatives. -/
def Obligations.FieldLaws : Prop :=
  ∀ (c : Cfg) (x y z : Nat), c.Valid → x < c.p → y < c.p → z < c.p →
    fadd c x y = fadd c y x ∧ fmul c x y = fmul c y x ∧
    fadd c (fadd c x y) z = fadd c x (fadd c y z) ∧ fmul c (fmul c x y) z = fmul c x (fmul c y z) ∧
    fmul c x (fadd c y z) = fadd c (fmul c x y) (fmul c x z) ∧
    fmul c x (fsub c y z) = fsub c (fmul c x y) (fmul c x z) ∧
    fadd c x 0 = x ∧ fmul c x 1 = x ∧ fsub c x y = fadd c x (fsub c 0 y) ∧ fadd c (fsub c x y) y = x

/-- spec/40_field_kernel.md section 2: `FEXP` with its conventions and Fermat's theorem, and `FROOT` with its failure. -/
def Obligations.FexpAndFrootResults : Prop :=
  ∀ (c : Cfg) (a e k : Nat), c.Valid → a < c.p →
    fexp c a 0 = 1 ∧ fexp c a (e + 1) = fmul c (fexp c a e) a ∧ (0 < e → fexp c 0 e = 0) ∧
    (a ≠ 0 → fexp c a (c.p - 1) = 1) ∧
    (c.twoAdicity < k → froot c k = .error .root) ∧
    (k ≤ c.twoAdicity → froot c k = .ok (c.rootAt k) ∧ fexp c (c.rootAt k) (2 ^ k) = 1) ∧
    froot c 0 = .ok 1 ∧ (1 ≤ c.twoAdicity → froot c 1 = .ok (c.p - 1))

/-- R141: `SWAP` exchanges two words and changes no other; the permutation loop never calls it with equal indices. -/
def Obligations.SwapExchangesTwoWords : Prop :=
  (∀ (sp : Space) (mem : Memory) (i j a b : Nat), i ≠ j → mem.read i = some a → mem.read j = some b →
    ∃ mem', swap sp mem i j = .ok (a, mem') ∧ mem'.read i = some b ∧ mem'.read j = some a ∧
      ∀ k, k ≠ i → k ≠ j → mem'.read k = mem.read k) ∧
  (∀ (sp : Space) (mem : Memory) (b i tmp : Nat), rev b i = i → permuteStep sp b i tmp mem = .ok (tmp, mem))

/-- R171: `BFLY` and `BFLY0` on canonical words, their corner cases and the frame. -/
def Obligations.ButterflyResults : Prop :=
  ∀ (c : Cfg) (t d : Memory) (p q ti ev od twd : Nat), c.Valid → p < q →
    d.read p = some ev → d.read q = some od → t.read ti = some twd → ev < c.p → od < c.p → twd < c.p →
    (∃ d', bfly c t p q ti d = .ok d' ∧ d'.read p = some (fadd c ev (fmul c twd od)) ∧
      d'.read q = some (fsub c ev (fmul c twd od)) ∧ ∀ k, k ≠ p → k ≠ q → d'.read k = d.read k) ∧
    (∃ d', bfly0 c p q d = .ok d' ∧ d'.read p = some (fadd c ev od) ∧ d'.read q = some (fsub c ev od) ∧
      ∀ k, k ≠ p → k ≠ q → d'.read k = d.read k) ∧
    (twd = 1 → bfly c t p q ti d = bfly0 c p q d) ∧
    (od = 0 → ∃ d', bfly c t p q ti d = .ok d' ∧ d'.read p = some ev ∧ d'.read q = some ev) ∧
    (ev = fmul c twd od → ∃ d', bfly c t p q ti d = .ok d' ∧ d'.read q = some 0)

/-- R127: `PSER` writes the power series and nothing else, and its corner cases. -/
def Obligations.PowerSeriesResult : Prop :=
  ∀ (c : Cfg) (g k : Nat) (t : Memory), c.Valid → g < c.p →
    (∀ i, i < k → (pser c g k t).read i = some (g ^ i % c.p)) ∧ Memory.SameFrom k t (pser c g k t) ∧
    pser c g 0 t = t ∧ (pser c g 1 t).read 0 = some 1 ∧
    (g = 1 → ∀ i, i < k → (pser c g k t).read i = some 1)

/-- R10: bit reversal as a sum over bits, and the facts other rules use. -/
def Obligations.BitReversalFacts : Prop :=
  (∀ m i, i < 2 ^ m → rev m i = ∑ b ∈ Finset.range m, i / 2 ^ b % 2 * 2 ^ (m - 1 - b)) ∧
  rev 0 0 = 0 ∧ (∀ m i, i < 2 ^ m → rev m i < 2 ^ m ∧ rev m (rev m i) = i) ∧
  (∀ m i, 1 ≤ m → i < 2 ^ (m - 1) →
    rev m (2 * i) = rev (m - 1) i ∧ rev m (2 * i + 1) = rev (m - 1) i + 2 ^ (m - 1)) ∧
  (∀ m k i, k ≤ m → i < 2 ^ k → rev m i = rev k i * 2 ^ (m - k))

/-- R158: a prefix of the table is what a smaller sub-problem needs, and is the table built for that size only if the
configured roots agree. -/
def Obligations.TablePrefixProperty : Prop :=
  ∀ (c : Cfg) (m q : Nat) (t : Memory), c.Valid → 1 ≤ q → q ≤ m → m ≤ c.twoAdicity → TableFor c m t →
    Cfg.PrimitiveRoot c.p (c.rootAt m ^ (2 ^ m / 2 ^ q) % c.p) q ∧
    (∀ j, j < 2 ^ q / 2 →
      t.read j = some ((c.rootAt m ^ (2 ^ m / 2 ^ q) % c.p) ^ rev (q - 1) j % c.p)) ∧
    (TableFor c q t ↔ c.rootAt q = c.rootAt m ^ (2 ^ m / 2 ^ q) % c.p)

/-- R159: the two members of a pair of table entries differ by a fourth root of unity, their squares are negatives of
each other and their fourth powers are equal. -/
def Obligations.TablePairProperty : Prop :=
  ∀ (c : Cfg) (m k : Nat) (t : Memory), c.Valid → 2 ≤ m → m ≤ c.twoAdicity → TableFor c m t → k < 2 ^ m / 4 →
    ∃ x y, t.read (2 * k) = some x ∧ t.read (2 * k + 1) = some y ∧
      y = fmul c x (c.rootAt m ^ (2 ^ m / 4) % c.p) ∧ fmul c y y = fsub c 0 (fmul c x x) ∧
      fmul c (fmul c y y) (fmul c y y) = fmul c (fmul c x x) (fmul c x x)

/-! ## The model's own host side -/

/-- Power-on reset keeps the construction parameters (R5) and the host's side of the port: that the inbox and the
replies stay is the model's choice (notes/assumptions/21.md, DESIGN CHOICE), not a rule of the spec. -/
def Obligations.PowerOnResetKeepsHostSide : Prop :=
  ∀ (s : State) (posted : Bool), ∃ t, hostOp posted .reset s = .next t ∧
    t.cfg = s.cfg ∧ t.inbox = s.inbox ∧ t.replies = s.replies
end

