-- ==== Sys2Proof/Laws/Memory.lean ====
section
/-! SUPPORT. Laws of the element memories: a read after a write, the canonical form, and reads that find a word. -/

namespace Sys2Proof.Machine

theorem read_write_same (m : Memory) (i : Nat) (v : Nat) : (m.write i v).read i = some v := by
  induction m with
  | nil => simp [Memory.write, Memory.read]
  | cons x rest ih =>
    obtain ⟨j, w⟩ := x
    rw [Memory.write]
    split
    · simp [Memory.read]
    · split
      · simp [Memory.read]
      · rw [Memory.read, if_neg (by omega)]; exact ih

theorem read_write_other (m : Memory) {i k : Nat} (v : Nat) (h : k ≠ i) :
    (m.write i v).read k = m.read k := by
  induction m with
  | nil => simp [Memory.write, Memory.read, h.symm]
  | cons x rest ih =>
    obtain ⟨j, w⟩ := x
    rw [Memory.write]
    split
    · rw [Memory.read, if_neg h.symm]
    · split
      · rename_i hij; subst hij
        rw [Memory.read, if_neg h.symm, Memory.read, if_neg h.symm]
      · rw [Memory.read, Memory.read, ih]

/-- A write changes one word and no other. -/
theorem read_write (m : Memory) (i k : Nat) (v : Nat) :
    (m.write i v).read k = if k = i then some v else m.read k := by
  split
  · rename_i h; subst h; exact read_write_same m k v
  · rename_i h; exact read_write_other m v h

/-- The entries of a memory after a write. -/
theorem mem_write {m : Memory} {i : Nat} {v : Nat} {x : Nat × Nat} (h : x ∈ m.write i v) :
    x = (i, v) ∨ x ∈ m := by
  induction m with
  | nil => simpa [Memory.write] using h
  | cons y rest ih =>
    obtain ⟨j, w⟩ := y
    rw [Memory.write] at h
    split at h
    · simpa using h
    · split at h
      · simp only [List.mem_cons] at h ⊢; tauto
      · rcases List.mem_cons.1 h with h | h
        · exact .inr (h ▸ List.mem_cons_self)
        · rcases ih h with h | h
          · exact .inl h
          · exact .inr (List.mem_cons_of_mem _ h)

/-- A write keeps the canonical form. -/
theorem wf_write {m : Memory} (h : m.wf) (i : Nat) (v : Nat) : (m.write i v).wf := by
  induction m with
  | nil => simp [Memory.write, Memory.wf]
  | cons x rest ih =>
    obtain ⟨j, w⟩ := x
    obtain ⟨hx, hrest⟩ := List.pairwise_cons.1 h
    rw [Memory.write]
    split
    · rename_i hij
      refine List.pairwise_cons.2 ⟨fun y hy => ?_, h⟩
      rcases List.mem_cons.1 hy with hy | hy
      · subst hy; exact hij
      · exact lt_trans hij (hx y hy)
    · split
      · rename_i hij; subst hij; exact List.pairwise_cons.2 ⟨hx, hrest⟩
      · refine List.pairwise_cons.2 ⟨fun y hy => ?_, ih hrest⟩
        rcases mem_write hy with hy | hy
        · subst hy; show j < i; omega
        · exact hx y hy

/-- A word that is read is an entry of the memory. -/
theorem mem_of_read {m : Memory} {i : Nat} {v : Nat} (h : m.read i = some v) : (i, v) ∈ m := by
  induction m with
  | nil => simp [Memory.read] at h
  | cons x rest ih =>
    obtain ⟨j, w⟩ := x
    rw [Memory.read] at h
    split at h
    · rename_i hji; cases h; subst hji; exact List.mem_cons_self
    · exact List.mem_cons_of_mem _ (ih h)

/-- In canonical form every entry is what its index reads as. -/
theorem read_of_mem {m : Memory} (hw : m.wf) {i : Nat} {v : Nat} (h : (i, v) ∈ m) : m.read i = some v := by
  induction m with
  | nil => simp at h
  | cons x rest ih =>
    obtain ⟨j, w⟩ := x
    obtain ⟨hx, hrest⟩ := List.pairwise_cons.1 hw
    rw [Memory.read]
    rcases List.mem_cons.1 h with h | h
    · cases h; simp
    · have : j < i := hx _ h
      rw [if_neg (by omega)]; exact ih hrest h

/-- Two memories in canonical form that read alike are equal. -/
theorem memory_ext {m m' : Memory} (h : m.wf) (h' : m'.wf) (hr : ∀ k, m.read k = m'.read k) : m = m' := by
  have hp : m.Perm m' := by
    refine (List.perm_ext_iff_of_nodup ?_ ?_).2 fun x => ⟨fun hx => ?_, fun hx => ?_⟩
    · exact h.imp fun hab e => by rw [e] at hab; exact lt_irrefl _ hab
    · exact h'.imp fun hab e => by rw [e] at hab; exact lt_irrefl _ hab
    · exact mem_of_read ((hr x.1).symm.trans (read_of_mem h hx))
    · exact mem_of_read ((hr x.1).trans (read_of_mem h' hx))
  exact hp.eq_of_pairwise (fun a b _ _ hab hba => absurd hab (by exact not_lt_of_gt hba)) h h'

/-- No word of the range is missing exactly when every word of it has a value. -/
theorem firstMissing_eq_none (m : Memory) (k i : Nat) :
    m.firstMissing k i = none ↔ ∀ j, i ≤ j → j < i + k → (m.read j).isSome = true := by
  induction k generalizing i with
  | zero => simp only [Memory.firstMissing, true_iff]; omega
  | succ k ih =>
    rw [Memory.firstMissing]
    cases hr : m.read i with
    | none =>
      simp only [reduceCtorEq, false_iff, not_forall]
      exact ⟨i, le_refl _, by omega, by simp [hr]⟩
    | some v =>
      simp only [ih]
      refine ⟨fun h j h1 h2 => ?_, fun h j h1 h2 => h j (by omega) (by omega)⟩
      rcases Nat.eq_or_lt_of_le h1 with h1 | h1
      · subst h1; simp [hr]
      · exact h j h1 (by omega)

/-- The missing word that is found has no value, lies in the range, and every word of the range below it has one. -/
theorem firstMissing_eq_some {m : Memory} {k i j : Nat} (h : m.firstMissing k i = some j) :
    i ≤ j ∧ j < i + k ∧ m.read j = none ∧ ∀ l, i ≤ l → l < j → (m.read l).isSome = true := by
  induction k generalizing i with
  | zero => simp [Memory.firstMissing] at h
  | succ k ih =>
    rw [Memory.firstMissing] at h
    cases hr : m.read i with
    | none => rw [hr] at h; cases h; exact ⟨le_refl _, by omega, hr, by omega⟩
    | some v =>
      rw [hr] at h
      obtain ⟨h1, h2, h3, h4⟩ := ih h
      refine ⟨by omega, by omega, h3, fun l hl hlj => ?_⟩
      rcases Nat.eq_or_lt_of_le hl with hl | hl
      · subst hl; simp [hr]
      · exact h4 l hl hlj

/-- A memory that holds a sequence misses no word of it. -/
theorem firstMissing_of_holds {m : Memory} {n : Nat} {a : Nat → Nat} (h : m.Holds n a) :
    m.firstMissing n 0 = none :=
  (firstMissing_eq_none m n 0).2 fun j _ hj => by simp [h j (by omega)]

theorem canonical_write {p : Nat} {m : Memory} (h : m.Canonical p) {i : Nat} {v : Nat} (hv : v < p) :
    (m.write i v).Canonical p := fun x hx => by
  rcases mem_write hx with hx | hx
  · subst hx; exact hv
  · exact h x hx

theorem within_write {n : Nat} {m : Memory} (h : m.Within n) {i : Nat} {v : Nat} (hi : i < n) :
    (m.write i v).Within n := fun x hx => by
  rcases mem_write hx with hx | hx
  · subst hx; exact hi
  · exact h x hx

@[simp] theorem wf_nil : Memory.wf [] := List.Pairwise.nil

/-- A raw word is read exactly when it has a value. -/
theorem wordAt_eq_ok {sp : Space} {m : Memory} {i : Nat} {v : Nat} :
    wordAt sp m i = .ok v ↔ m.read i = some v := by
  unfold wordAt; cases m.read i <;> simp

/-- An operand is read exactly when it has a value and is canonical (U3). -/
theorem operandAt_eq_ok {c : Cfg} {sp : Space} {m : Memory} {i : Nat} {v : Nat} :
    operandAt c sp m i = .ok v ↔ m.read i = some v ∧ v < c.p := by
  unfold operandAt
  cases m.read i with
  | none => simp
  | some w =>
    simp only [Option.some.injEq]
    split
    · rename_i h; simp only [Except.ok.injEq]; exact ⟨fun e => ⟨e, e ▸ h⟩, fun e => e.1⟩
    · rename_i h; simp only [reduceCtorEq, false_iff]; rintro ⟨rfl, h'⟩; exact h h'

end Sys2Proof.Machine
end

