-- ==== Sys2Proof/Laws/State.lean ====
section
/-! SUPPORT. One lemma per field per update of `State`, true by unfolding the update once. -/

namespace Sys2Proof.Machine

section
variable (s : State) (code : Err) (e : Event) (rep : Reply) (r : RegNum) (v : Word32) (run : Run)

@[simp] theorem faultEntry_cfg : (faultEntry code s).cfg = s.cfg := rfl
@[simp] theorem faultEntry_len : (faultEntry code s).len = s.len := rfl
@[simp] theorem faultEntry_status :
    (faultEntry code s).status = { mode := .fault, done := false, err := some code } := rfl
@[simp] theorem faultEntry_twlen : (faultEntry code s).twlen = s.twlen := rfl
@[simp] theorem faultEntry_dmem : (faultEntry code s).dmem = s.dmem := rfl
@[simp] theorem faultEntry_tmem : (faultEntry code s).tmem = s.tmem := rfl
@[simp] theorem faultEntry_run : (faultEntry code s).run = s.run := rfl
@[simp] theorem faultEntry_inbox : (faultEntry code s).inbox = s.inbox := rfl
@[simp] theorem faultEntry_replies : (faultEntry code s).replies = s.replies := rfl

@[simp] theorem softReset_cfg : (softReset s).cfg = s.cfg := rfl
@[simp] theorem softReset_len : (softReset s).len = 0#32 := rfl
@[simp] theorem softReset_status : (softReset s).status = Status.reset := rfl
@[simp] theorem softReset_twlen : (softReset s).twlen = 0#32 := rfl
@[simp] theorem softReset_dmem : (softReset s).dmem = s.dmem := rfl
@[simp] theorem softReset_tmem : (softReset s).tmem = s.tmem := rfl
@[simp] theorem softReset_run : (softReset s).run = s.run := rfl
@[simp] theorem softReset_inbox : (softReset s).inbox = s.inbox := rfl
@[simp] theorem softReset_replies : (softReset s).replies = s.replies := rfl

@[simp] theorem powerOnReset_cfg : (powerOnReset s).cfg = s.cfg := rfl
@[simp] theorem powerOnReset_len : (powerOnReset s).len = 0#32 := rfl
@[simp] theorem powerOnReset_status : (powerOnReset s).status = Status.reset := rfl
@[simp] theorem powerOnReset_twlen : (powerOnReset s).twlen = 0#32 := rfl
@[simp] theorem powerOnReset_dmem : (powerOnReset s).dmem = [] := rfl
@[simp] theorem powerOnReset_tmem : (powerOnReset s).tmem = [] := rfl
@[simp] theorem powerOnReset_run : (powerOnReset s).run = none := rfl
@[simp] theorem powerOnReset_inbox : (powerOnReset s).inbox = s.inbox := rfl
@[simp] theorem powerOnReset_replies : (powerOnReset s).replies = s.replies := rfl

@[simp] theorem hold_cfg : (hold e s).cfg = s.cfg := rfl
@[simp] theorem hold_len : (hold e s).len = s.len := rfl
@[simp] theorem hold_status : (hold e s).status = s.status := rfl
@[simp] theorem hold_twlen : (hold e s).twlen = s.twlen := rfl
@[simp] theorem hold_dmem : (hold e s).dmem = s.dmem := rfl
@[simp] theorem hold_tmem : (hold e s).tmem = s.tmem := rfl
@[simp] theorem hold_run :
    (hold e s).run = s.run.map (fun r => { r with held := r.held ++ [e] }) := rfl
@[simp] theorem hold_inbox : (hold e s).inbox = s.inbox := rfl
@[simp] theorem hold_replies : (hold e s).replies = s.replies := rfl

@[simp] theorem answer_cfg : (answer rep s).cfg = s.cfg := rfl
@[simp] theorem answer_len : (answer rep s).len = s.len := rfl
@[simp] theorem answer_status : (answer rep s).status = s.status := rfl
@[simp] theorem answer_twlen : (answer rep s).twlen = s.twlen := rfl
@[simp] theorem answer_dmem : (answer rep s).dmem = s.dmem := rfl
@[simp] theorem answer_tmem : (answer rep s).tmem = s.tmem := rfl
@[simp] theorem answer_run : (answer rep s).run = s.run := rfl
@[simp] theorem answer_inbox : (answer rep s).inbox = s.inbox := rfl
@[simp] theorem answer_replies : (answer rep s).replies = rep :: s.replies := rfl

@[simp] theorem beginRun_cfg : (beginRun run s).cfg = s.cfg := rfl
@[simp] theorem beginRun_len : (beginRun run s).len = s.len := rfl
@[simp] theorem beginRun_status : (beginRun run s).status = s.status.issued := rfl
@[simp] theorem beginRun_twlen : (beginRun run s).twlen = s.twlen := rfl
@[simp] theorem beginRun_dmem : (beginRun run s).dmem = s.dmem := rfl
@[simp] theorem beginRun_tmem : (beginRun run s).tmem = s.tmem := rfl
@[simp] theorem beginRun_run : (beginRun run s).run = some run := rfl
@[simp] theorem beginRun_inbox : (beginRun run s).inbox = s.inbox := rfl
@[simp] theorem beginRun_replies : (beginRun run s).replies = s.replies := rfl

@[simp] theorem writeReg_cfg : (writeReg r v s).cfg = s.cfg := by unfold writeReg; split <;> rfl
@[simp] theorem writeReg_len : (writeReg r v s).len = if r = regLen then v else s.len := by
  unfold writeReg; split <;> rfl
@[simp] theorem writeReg_status : (writeReg r v s).status = s.status := by unfold writeReg; split <;> rfl
@[simp] theorem writeReg_twlen : (writeReg r v s).twlen = s.twlen := by unfold writeReg; split <;> rfl
@[simp] theorem writeReg_dmem : (writeReg r v s).dmem = s.dmem := by unfold writeReg; split <;> rfl
@[simp] theorem writeReg_tmem : (writeReg r v s).tmem = s.tmem := by unfold writeReg; split <;> rfl
@[simp] theorem writeReg_run : (writeReg r v s).run = s.run := by unfold writeReg; split <;> rfl
@[simp] theorem writeReg_inbox : (writeReg r v s).inbox = s.inbox := by unfold writeReg; split <;> rfl
@[simp] theorem writeReg_replies : (writeReg r v s).replies = s.replies := by unfold writeReg; split <;> rfl

@[simp] theorem retire_cfg : (retire s).cfg = s.cfg := by unfold retire; split <;> rfl
@[simp] theorem retire_len : (retire s).len = s.len := by unfold retire; split <;> rfl
@[simp] theorem retire_status : (retire s).status = s.status.retired := by unfold retire; split <;> rfl
@[simp] theorem retire_dmem : (retire s).dmem = s.dmem := by unfold retire; split <;> rfl
@[simp] theorem retire_tmem : (retire s).tmem = s.tmem := by unfold retire; split <;> rfl
@[simp] theorem retire_run : (retire s).run = none := by unfold retire; split <;> simp_all
@[simp] theorem retire_replies : (retire s).replies = s.replies := by unfold retire; split <;> rfl
theorem retire_twlen (h : s.run = some run) :
    (retire s).twlen = if run.opl = 1#4 then run.nl >>> 1 else s.twlen := by unfold retire; rw [h]
theorem retire_inbox (h : s.run = some run) : (retire s).inbox = run.held ++ s.inbox := by
  unfold retire; rw [h]

@[simp] theorem startRun_opl (i : Instr) (g : Nat) : (startRun i g s).opl = opcode i := rfl
@[simp] theorem startRun_nl (i : Instr) (g : Nat) : (startRun i g s).nl = s.len := rfl
@[simp] theorem startRun_seq (i : Instr) (g : Nat) : (startRun i g s).seq = startDesc i := rfl
@[simp] theorem startRun_gen (i : Instr) (g : Nat) : (startRun i g s).gen = g := rfl
@[simp] theorem startRun_held (i : Instr) (g : Nat) : (startRun i g s).held = [] := rfl

@[simp] theorem issued_mode (st : Status) : st.issued.mode = .busy := rfl
@[simp] theorem issued_done (st : Status) : st.issued.done = false := rfl
@[simp] theorem issued_err (st : Status) : st.issued.err = st.err := rfl
@[simp] theorem retired_mode (st : Status) : st.retired.mode = .idle := rfl
@[simp] theorem retired_done (st : Status) : st.retired.done = true := rfl
@[simp] theorem retired_err (st : Status) : st.retired.err = st.err := rfl
@[simp] theorem issued_retired (st : Status) : st.issued.retired = st.retired := rfl

end

end Sys2Proof.Machine
end

