-- ==== Sys2Proof/Laws/Ops.lean ====
section
/-! SUPPORT. For each shared operation one lemma that says everything it can do. -/

namespace Sys2Proof.Machine

/-- What a command latches when it is issued. -/
theorem latch_eq_ok {i : Instr} {s : State} {r : Run} (h : latch i s = .ok r) :
    missingWord i s = none ∧ ∃ g, startGenerator s.cfg i s.len = .ok g ∧ r = startRun i g s := by
  unfold latch at h
  split at h
  · cases h
  · split at h
    · cases h
    · rename_i hm _ g hg; cases h; exact ⟨hm, g, hg, rfl⟩

/-- Everything a command word can do, by the state of the block. -/
theorem command_next {i : Instr} {body : Run → State → Except Refusal State} {s t : State}
    (h : command i body s = .next t) :
    (s.status.mode = .busy ∧ t = hold (.call (.regWrite (encodeReg i) (encode i))) s) ∨
    (s.status.mode = .fault ∧ t = s) ∨
    (s.status.mode = .idle ∧ ∃ code, checkLength s.cfg i s.len s.twlen = some code ∧ t = faultEntry code s) ∨
    (s.status.mode = .idle ∧ checkLength s.cfg i s.len s.twlen = none ∧
      ∃ r, latch i s = .ok r ∧ body r (beginRun r s) = .ok t) := by
  unfold command at h
  split at h
  · rename_i hm; cases h; exact .inl ⟨hm, rfl⟩
  · rename_i hm; cases h; exact .inr (.inl ⟨hm, rfl⟩)
  · rename_i hm
    split at h
    · rename_i code hc; cases h; exact .inr (.inr (.inl ⟨hm, code, hc, rfl⟩))
    · rename_i hc
      split at h
      · cases h
      · rename_i r hr
        split at h
        · cases h
        · rename_i t' hb; cases h; exact .inr (.inr (.inr ⟨hm, hc, r, hr, hb⟩))

/-- A command whose checks pass runs to the end of its body. -/
theorem command_runs {i : Instr} {body : Run → State → Except Refusal State} {s t : State} {r : Run}
    (hm : s.status.mode = .idle) (hc : checkLength s.cfg i s.len s.twlen = none) (hr : latch i s = .ok r)
    (hb : body r (beginRun r s) = .ok t) : command i body s = .next t := by
  unfold command; simp only [hm, hc, hr, hb]

/-- A command whose check fails enters its fault. -/
theorem command_faults {i : Instr} {body : Run → State → Except Refusal State} {s : State} {code : Err}
    (hm : s.status.mode = .idle) (hc : checkLength s.cfg i s.len s.twlen = some code) :
    command i body s = .next (faultEntry code s) := by
  unfold command; simp only [hm, hc]

/-- `SWAP` completes exactly when both words have a value. -/
theorem swap_eq_ok {sp : Space} {m m' : Memory} {i j : Nat} {tmp : Nat} :
    swap sp m i j = .ok (tmp, m') ↔
      ∃ b, m.read i = some tmp ∧ m.read j = some b ∧ m' = (m.write i b).write j tmp := by
  unfold swap wordAt
  cases hi : m.read i with
  | none => simp
  | some a =>
    cases hj : m.read j with
    | none => simp
    | some b =>
      simp only [Except.ok.injEq, Prod.mk.injEq, Option.some.injEq]
      constructor
      · rintro ⟨rfl, rfl⟩; exact ⟨b, rfl, rfl, rfl⟩
      · rintro ⟨b', rfl, rfl, rfl⟩; exact ⟨rfl, rfl⟩

/-- One iteration of the permutation loop: nothing, or one `SWAP`. -/
theorem permuteStep_eq_ok {sp : Space} {b i : Nat} {tmp tmp' : Nat} {m m' : Memory}
    (h : permuteStep sp b i tmp m = .ok (tmp', m')) :
    (rev b i ≤ i ∧ tmp' = tmp ∧ m' = m) ∨ (i < rev b i ∧ swap sp m i (rev b i) = .ok (tmp', m')) := by
  unfold permuteStep at h
  split at h
  · rename_i hi; exact .inr ⟨hi, h⟩
  · rename_i hi; cases h; exact .inl ⟨by omega, rfl, rfl⟩

/-- The reads of a butterfly complete exactly when its three words are canonical. -/
theorem bflyLoad_eq_ok {c : Cfg} {t d : Memory} {p q ti : Nat} {lane : Lane} :
    bflyLoad c t p q ti d = .ok lane ↔
      (d.read p = some lane.ev ∧ lane.ev < c.p) ∧ (d.read q = some lane.od ∧ lane.od < c.p) ∧
      (t.read ti = some lane.twd ∧ lane.twd < c.p) ∧ lane.pr = fmul c lane.twd lane.od := by
  rw [← operandAt_eq_ok (sp := .dmem), ← operandAt_eq_ok (sp := .dmem), ← operandAt_eq_ok (sp := .tmem)]
  unfold bflyLoad
  obtain ⟨ev, od, twd, pr⟩ := lane
  cases operandAt c .dmem d p with
  | error e => simp
  | ok a =>
    cases operandAt c .dmem d q with
    | error e => simp
    | ok b =>
      cases operandAt c .tmem t ti with
      | error e => simp
      | ok w =>
        simp only [Except.ok.injEq, Lane.mk.injEq]
        constructor
        · rintro ⟨rfl, rfl, rfl, rfl⟩; exact ⟨rfl, rfl, rfl, rfl⟩
        · rintro ⟨rfl, rfl, rfl, rfl⟩; exact ⟨rfl, rfl, rfl, rfl⟩

/-- The reads of `BFLY0` complete exactly when its two words are canonical. -/
theorem bfly0Load_eq_ok {c : Cfg} {d : Memory} {p q : Nat} {lane lane' : Lane} :
    bfly0Load c lane p q d = .ok lane' ↔
      (d.read p = some lane'.ev ∧ lane'.ev < c.p) ∧ (d.read q = some lane'.od ∧ lane'.od < c.p) ∧
      lane'.twd = lane.twd ∧ lane'.pr = lane'.od := by
  rw [← operandAt_eq_ok (sp := .dmem), ← operandAt_eq_ok (sp := .dmem)]
  unfold bfly0Load
  obtain ⟨ev, od, twd, pr⟩ := lane'
  cases operandAt c .dmem d p with
  | error e => simp
  | ok a =>
    cases operandAt c .dmem d q with
    | error e => simp
    | ok b =>
      simp only [Except.ok.injEq, Lane.mk.injEq]
      constructor
      · rintro ⟨rfl, rfl, rfl, rfl⟩; exact ⟨rfl, rfl, rfl, rfl⟩
      · rintro ⟨rfl, rfl, rfl, rfl⟩; exact ⟨rfl, rfl, rfl, rfl⟩

/-- What a butterfly's two writes leave. -/
theorem read_bflyStore (c : Cfg) (lane : Lane) {p q : Nat} (hpq : p ≠ q) (d : Memory) (k : Nat) :
    (bflyStore c lane p q d).read k =
      if k = p then some (fadd c lane.ev lane.pr)
      else if k = q then some (fsub c lane.ev lane.pr) else d.read k := by
  unfold bflyStore
  simp only [read_write]
  split_ifs <;> simp_all

/-- Kernel results are canonical (R120). -/
theorem fadd_lt {c : Cfg} (hp : 0 < c.p) (a b : Nat) : fadd c a b < c.p := Nat.mod_lt _ hp
theorem fmul_lt {c : Cfg} (hp : 0 < c.p) (a b : Nat) : fmul c a b < c.p := Nat.mod_lt _ hp
theorem fsub_lt {c : Cfg} (hp : 0 < c.p) (a b : Nat) : fsub c a b < c.p := by
  unfold fsub
  have h1 := Int.emod_nonneg ((a : Int) - b) (b := (c.p : Int)) (by omega)
  have h2 := Int.emod_lt_of_pos ((a : Int) - b) (b := (c.p : Int)) (by omega)
  omega

/-- The kernel's operations are those of the integers modulo `P` (R126). -/
theorem cast_fadd (c : Cfg) (a b : Nat) : ((fadd c a b : Nat) : ZMod c.p) = a + b := by
  simp [fadd]
theorem cast_fmul (c : Cfg) (a b : Nat) : ((fmul c a b : Nat) : ZMod c.p) = a * b := by
  simp [fmul]
theorem cast_fsub {c : Cfg} (hp : 0 < c.p) (a b : Nat) : ((fsub c a b : Nat) : ZMod c.p) = a - b := by
  have h1 := Int.emod_nonneg ((a : Int) - b) (b := (c.p : Int)) (by omega)
  have h2 : ((fsub c a b : Nat) : Int) = ((a : Int) - b) % c.p := Int.toNat_of_nonneg h1
  have h3 : ((fsub c a b : Nat) : ZMod c.p) = (((fsub c a b : Nat) : Int) : ZMod c.p) := by simp
  rw [h3, h2]; simp

end Sys2Proof.Machine
end

