-- ==== Sys2Proof/Laws/Effects.lean ====
section
/-! SUPPORT. Everything an event can do, said once: one inversion lemma for the engine's micro-step, one for an event,
one for a step. -/

namespace Sys2Proof.Machine

/-- Everything one micro-operation, or the retire that follows the last one, can do to the state (R201, R204). -/
inductive MicroEffect (lane : Nat) (path : List Bool) (r : Run) (s : State) : State → Prop where
  | series (i : Nat) : r.seq = .series i → i < halfLength r.nl.toNat →
      MicroEffect lane path r s { s with
        tmem := s.tmem.write i r.acc
        run := some { r with seq := .series (i + 1), acc := fmul s.cfg r.acc r.gen } }
  | seriesEnd (i : Nat) : r.seq = .series i → halfLength r.nl.toNat ≤ i →
      MicroEffect lane path r s { s with run := some { r with seq := .permuteTable 0 } }
  | table (i tmp : Nat) (m : Memory) : r.seq = .permuteTable i → i < halfLength r.nl.toNat →
      permuteStep .tmem (logLength r.nl.toNat - 1) i r.tmp s.tmem = .ok (tmp, m) →
      MicroEffect lane path r s
        { s with tmem := m, run := some { r with seq := .permuteTable (i + 1), tmp := tmp } }
  | data (i tmp : Nat) (m : Memory) : r.seq = .permuteData i → i < r.nl.toNat →
      permuteStep .dmem (logLength r.nl.toNat) i r.tmp s.dmem = .ok (tmp, m) →
      MicroEffect lane path r s
        { s with dmem := m, run := some { r with seq := .permuteData (i + 1), tmp := tmp } }
  | task (t t' : Task) (lane' : Lane) (d' : Memory) : r.seq = .tasks t → t.isDone = false →
      taskStep s.cfg r.nl.toNat s.tmem (r.lanes.getD lane Lane.clear) s.dmem path t = .ok (t', lane', d') →
      MicroEffect lane path r s
        { s with dmem := d', run := some { r with seq := .tasks t', lanes := r.lanes.set lane lane' } }
  | retireTable (i : Nat) : r.seq = .permuteTable i → halfLength r.nl.toNat ≤ i →
      MicroEffect lane path r s (retire s)
  | retireData (i : Nat) : r.seq = .permuteData i → r.nl.toNat ≤ i → MicroEffect lane path r s (retire s)
  | retireTasks (t : Task) : r.seq = .tasks t → t.isDone = true → MicroEffect lane path r s (retire s)

theorem microStep_next {lane : Nat} {path : List Bool} {r : Run} {s t : State}
    (h : microStep lane path r s = .next t) : MicroEffect lane path r s t := by
  unfold microStep at h
  split at h
  · rename_i i hseq
    split at h
    · rename_i hi; cases h; exact .series i hseq hi
    · rename_i hi; cases h; exact .seriesEnd i hseq (Nat.le_of_not_lt hi)
  · rename_i i hseq
    split at h
    · rename_i hi
      split at h
      · cases h
      · rename_i tmp m hp; cases h; exact .table i tmp m hseq hi hp
    · rename_i hi; cases h; exact .retireTable i hseq (Nat.le_of_not_lt hi)
  · rename_i i hseq
    split at h
    · rename_i hi
      split at h
      · cases h
      · rename_i tmp m hp; cases h; exact .data i tmp m hseq hi hp
    · rename_i hi; cases h; exact .retireData i hseq (Nat.le_of_not_lt hi)
  · rename_i tk hseq
    split at h
    · rename_i hd; cases h; exact .retireTasks tk hseq hd
    · rename_i hd
      split at h
      · cases h
      · rename_i t' lane' d' hp; cases h; exact .task tk t' lane' d' hseq (by simpa using hd) hp

/-- Everything an event can do to the state when it answers a next state. -/
inductive Effect (e : Event) (s : State) : State → Prop where
  /-- A write that is ignored (R71, R73), or an engine event with no command running. -/
  | ignored : Effect e s s
  /-- A host operation that is held (R72). -/
  | held (e' : Event) : s.status.mode = .busy → Effect e s (hold e' s)
  /-- A read (R62). -/
  | answered (rep : Reply) : Effect e s (answer rep s)
  /-- The reset input (R260). -/
  | powerOn : e.Makes .reset → Effect e s (powerOnReset s)
  /-- `SRST` (R205). -/
  | soft (v : Word32) (rsv : BitVec 31) : s.status.mode ≠ .busy → e.Makes (.regWrite regCtrl v) →
      decode regCtrl v = .ok (.srst rsv) → Effect e s (softReset s)
  /-- A failed command check (R223, R230). -/
  | checkFailed (v : Word32) (code : Err) : s.status.mode = .idle → e.Makes (.regWrite regCmd v) →
      check s.cfg v s.len s.twlen = some code → Effect e s (faultEntry code s)
  /-- `DWrite` of a word that is not canonical (R63). -/
  | nonCanonical (i v : Nat) : s.status.mode = .idle → e.Makes (.dWrite i v) → s.cfg.p ≤ v →
      Effect e s (faultEntry .nonCanon s)
  /-- A write to `LEN` (R71). -/
  | lenWritten (v : Word32) : s.status.mode = .idle → e.Makes (.regWrite regLen v) →
      Effect e s { s with len := v }
  /-- `DWrite` of a canonical word (R63). -/
  | dataWritten (i v : Nat) : s.status.mode = .idle → e.Makes (.dWrite i v) → i < s.cfg.nmax → v < s.cfg.p →
      Effect e s { s with dmem := s.dmem.write i v }
  /-- A command run to its retire (R14). -/
  | ranBuildTw (w : Word32) (r : Run) (t : Memory) : s.status.mode = .idle → e = .call (.regWrite regCmd w) →
      decodeC w = .ok .buildTw → checkLength s.cfg .buildTw s.len s.twlen = none → latch .buildTw s = .ok r →
      buildTwBody r (beginRun r s) = .ok (retire { beginRun r s with tmem := t }) →
      Effect e s (retire { beginRun r s with tmem := t })
  | ranNtt (w : Word32) (r : Run) (d : Memory) : s.status.mode = .idle → e = .call (.regWrite regCmd w) →
      decodeC w = .ok .ntt → checkLength s.cfg .ntt s.len s.twlen = none → latch .ntt s = .ok r →
      nttSub s.cfg s.tmem r.nl.toNat (logLength r.nl.toNat) 0 1 s.dmem = .ok d →
      Effect e s (retire { beginRun r s with dmem := d })
  | ranBitrev (w : Word32) (r : Run) (d : Memory) : s.status.mode = .idle → e = .call (.regWrite regCmd w) →
      decodeC w = .ok .bitrev → checkLength s.cfg .bitrev s.len s.twlen = none → latch .bitrev s = .ok r →
      permuteLoop .dmem (logLength r.nl.toNat) r.nl.toNat 0 s.dmem = .ok d →
      Effect e s (retire { beginRun r s with dmem := d })
  /-- A posted command that is issued (R200). -/
  | issued (w : Word32) (i : Instr) (r : Run) : s.status.mode = .idle → e = .post (.regWrite regCmd w) →
      decodeC w = .ok i → checkLength s.cfg i s.len s.twlen = none → latch i s = .ok r →
      Effect e s (beginRun r s)
  /-- A micro-operation or a retire (R201, R204). -/
  | micro (lane : Nat) (path : List Bool) (r : Run) (t : State) : e = .engine lane path →
      s.status.mode = .busy → s.run = some r → MicroEffect lane path r s t → Effect e s t

/-- What a decoded write to `CMD` or `CTRL` is. -/
theorem decode_reg {r : RegNum} {v : Word32} {i : Instr} (h : decode r v = .ok i) :
    (r = regCmd ∧ decodeC v = .ok i ∧ ∀ rsv, i ≠ .srst rsv) ∨ (r = regCtrl ∧ ∃ rsv, i = .srst rsv) := by
  unfold decode at h
  split at h
  · rename_i hr
    refine .inl ⟨hr, h, fun rsv => ?_⟩
    rintro rfl
    unfold decodeC at h
    split_ifs at h <;> cases h
  · split at h
    · rename_i hr
      unfold decodeK at h
      split at h
      · cases h; exact .inr ⟨hr, _, rfl⟩
      · cases h
    · cases h

theorem engineStep_next {lane : Nat} {path : List Bool} {s t : State} (h : engineStep lane path s = .next t) :
    t = s ∨ (s.status.mode = .busy ∧ ∃ r, s.run = some r ∧ MicroEffect lane path r s t) := by
  unfold engineStep at h
  split at h
  · rename_i r hm hr; exact .inr ⟨hm, r, hr, microStep_next h⟩
  · cases h; exact .inl rfl

theorem makes_opEvent (posted : Bool) (op : HostOp) : (opEvent posted op).Makes op := by
  cases posted <;> simp [opEvent, Event.Makes]

/-- What a command word does in `IDLE`, made either way. -/
theorem runInstr_next {posted : Bool} {w : Word32} {i : Instr} {s t : State} (hm : s.status.mode = .idle)
    (hw : decode regCmd w = .ok i) (h : runInstr posted i s = .next t) :
    Effect (opEvent posted (.regWrite regCmd w)) s t := by
  obtain ⟨-, hd, hn⟩ | ⟨hr, -⟩ := decode_reg hw
  swap
  · exact absurd hr (by decide)
  have key : ∀ body, command i body s = .next t →
      (∃ code, checkLength s.cfg i s.len s.twlen = some code ∧ t = faultEntry code s) ∨
      (checkLength s.cfg i s.len s.twlen = none ∧ ∃ r, latch i s = .ok r ∧ body r (beginRun r s) = .ok t) := by
    intro body hb
    rcases command_next hb with ⟨hm', -⟩ | ⟨hm', -⟩ | ⟨-, h⟩ | ⟨-, h⟩
    · rw [hm] at hm'; cases hm'
    · rw [hm] at hm'; cases hm'
    · exact .inl h
    · exact .inr h
  have failed : ∀ code, checkLength s.cfg i s.len s.twlen = some code → t = faultEntry code s →
      Effect (opEvent posted (.regWrite regCmd w)) s t := by
    rintro code hc rfl
    exact .checkFailed w code hm (makes_opEvent _ _) (by unfold check; rw [hd]; exact hc)
  cases posted with
  | true =>
    have hp : postCommand i s = .next t := by
      unfold runInstr at h
      cases i with
      | srst rsv => exact absurd rfl (hn rsv)
      | buildTw => exact h
      | ntt => exact h
      | bitrev => exact h
    rcases key _ hp with ⟨code, hc, ht⟩ | ⟨hc, r, hr, hb⟩
    · exact failed code hc ht
    · cases hb; exact .issued w i r hm rfl hd hc hr
  | false =>
    unfold runInstr exec at h
    cases i with
    | srst rsv => exact absurd rfl (hn rsv)
    | buildTw =>
      rcases key _ h with ⟨code, hc, ht⟩ | ⟨hc, r, hr, hb⟩
      · exact failed code hc ht
      · have hb' := hb
        unfold buildTwBody at hb'
        split at hb'
        · cases hb'
        · cases hb'; exact .ranBuildTw w r _ hm rfl hd hc hr hb
    | ntt =>
      rcases key _ h with ⟨code, hc, ht⟩ | ⟨hc, r, hr, hb⟩
      · exact failed code hc ht
      · unfold nttBody at hb
        split at hb
        · cases hb
        · rename_i hs; cases hb; exact .ranNtt w r _ hm rfl hd hc hr hs
    | bitrev =>
      rcases key _ h with ⟨code, hc, ht⟩ | ⟨hc, r, hr, hb⟩
      · exact failed code hc ht
      · unfold bitrevBody at hb
        split at hb
        · cases hb
        · rename_i hs; cases hb; exact .ranBitrev w r _ hm rfl hd hc hr hs

theorem dRead_next {i : Nat} {s t : State} (h : dRead i s = .next t) : ∃ rep, t = answer rep s := by
  unfold dRead at h
  split at h
  · cases h
  · cases h; exact ⟨_, rfl⟩

theorem tRead_next {i : Nat} {s t : State} (h : tRead i s = .next t) : ∃ rep, t = answer rep s := by
  unfold tRead at h
  split at h
  · cases h
  · cases h; exact ⟨_, rfl⟩

theorem opIdle_next {posted : Bool} {op : HostOp} {s t : State} (hm : s.status.mode = .idle)
    (hf : portFault s.cfg op = none) (h : opIdle posted op s = .next t) : Effect (opEvent posted op) s t := by
  cases op with
  | regRead r => cases h; exact .answered _
  | regWrite r v =>
    change regWriteIdle posted r v s = .next t at h
    unfold regWriteIdle at h
    split at h
    · rename_i i hd
      obtain ⟨rfl, -, -⟩ | ⟨rfl, rsv, rfl⟩ := decode_reg hd
      · exact runInstr_next hm hd h
      · have h' : execSrst rsv s = .next t := by cases posted <;> exact h
        unfold execSrst at h'
        rw [hm] at h'
        cases h'
        exact .soft v rsv (by simp [hm]) (makes_opEvent _ _) hd
    · rename_i w hd
      cases h
      unfold decode at hd
      split at hd
      · rename_i hr; subst hr
        exact .checkFailed v _ hm (makes_opEvent _ _) (by unfold check; rw [hd])
      · split at hd
        · unfold decodeK at hd; split at hd <;> cases hd
        · cases hd
    · cases h; exact .ignored
    · cases h
      unfold writeReg
      split
      · rename_i hr; subst hr; exact .lenWritten v hm (makes_opEvent _ _)
      · exact .ignored
  | dRead i => obtain ⟨rep, rfl⟩ := dRead_next h; exact .answered rep
  | tRead i => obtain ⟨rep, rfl⟩ := tRead_next h; exact .answered rep
  | dWrite i v =>
    change Host.Outcome.next (dWrite i v s) = .next t at h
    cases h
    change (if i < s.cfg.nmax then (if v < 2 ^ s.cfg.w then none else some (Fault.dataWiderThanPort v))
      else some (Fault.indexOutsideSpace .dmem i)) = none at hf
    unfold dWrite
    split at hf
    · rename_i hi
      split
      · rename_i hv; exact .dataWritten i v hm (makes_opEvent _ _) hi hv
      · rename_i hv; exact .nonCanonical i v hm (makes_opEvent _ _) (Nat.le_of_not_lt hv)
    · cases hf
  | reset => cases h; exact .powerOn (makes_opEvent _ _)

theorem opFault_next {posted : Bool} {op : HostOp} {s t : State} (hm : s.status.mode = .fault)
    (h : opFault op s = .next t) : Effect (opEvent posted op) s t := by
  cases op with
  | regRead r => cases h; exact .answered _
  | regWrite r v =>
    change regWriteFault r v s = .next t at h
    unfold regWriteFault at h
    split at h
    · rename_i i hd
      have keep : ∀ body, command i body s = .next t → t = s := by
        intro body hb
        rcases command_next hb with ⟨hm', -⟩ | ⟨-, ht⟩ | ⟨hm', -⟩ | ⟨hm', -⟩
        · rw [hm] at hm'; cases hm'
        · exact ht
        · rw [hm] at hm'; cases hm'
        · rw [hm] at hm'; cases hm'
      obtain ⟨rfl, -, hn⟩ | ⟨rfl, rsv, rfl⟩ := decode_reg hd
      · cases i with
        | srst rsv => exact absurd rfl (hn rsv)
        | buildTw => rw [keep _ h]; exact .ignored
        | ntt => rw [keep _ h]; exact .ignored
        | bitrev => rw [keep _ h]; exact .ignored
      · have h' : execSrst rsv s = .next t := h
        unfold execSrst at h'
        rw [hm] at h'
        cases h'
        exact .soft v rsv (by simp [hm]) (makes_opEvent _ _) hd
    · cases h; exact .ignored
  | dRead i => obtain ⟨rep, rfl⟩ := dRead_next h; exact .answered rep
  | tRead i => obtain ⟨rep, rfl⟩ := tRead_next h; exact .answered rep
  | dWrite i v => cases h; exact .ignored
  | reset => cases h; exact .powerOn (makes_opEvent _ _)

theorem opBusy_next {posted : Bool} {op : HostOp} {s t : State} (hm : s.status.mode = .busy)
    (h : opBusy posted op s = .next t) : Effect (opEvent posted op) s t := by
  cases op with
  | regRead r =>
    unfold opBusy at h
    simp only at h
    split at h
    · cases h; exact .answered _
    · cases h; exact .held _ hm
  | regWrite r v => cases h; exact .held _ hm
  | dRead i => cases h; exact .held _ hm
  | dWrite i v => cases h; exact .held _ hm
  | tRead i => cases h; exact .held _ hm
  | reset => cases h; exact .powerOn (makes_opEvent _ _)

theorem hostOp_next {posted : Bool} {op : HostOp} {s t : State} (h : hostOp posted op s = .next t) :
    Effect (opEvent posted op) s t := by
  unfold hostOp at h
  split at h
  · cases h
  · rename_i hf
    split at h
    · rename_i hm; exact opIdle_next hm hf h
    · rename_i hm; exact opBusy_next hm h
    · rename_i hm; exact opFault_next hm h

/-- Everything an event can do. -/
theorem onEvent_next {e : Event} {s t : State} (h : onEvent e s = .next t) : Effect e s t := by
  cases e with
  | call op => exact hostOp_next (posted := false) h
  | post op => exact hostOp_next (posted := true) h
  | engine lane path =>
    change (if lane < s.cfg.lanes then engineStep lane path s else .fault (.noSuchLane lane)) = .next t at h
    split at h
    · rcases engineStep_next h with rfl | ⟨hm, r, hr, hmi⟩
      · exact .ignored
      · exact .micro lane path r t rfl hm hr hmi
    · cases h

/-- Everything a step can do: the next event, or with nothing waiting the engine's own next step. -/
theorem step_next {s t : State} (h : step s = .next t) :
    (∃ e rest, s.inbox = e :: rest ∧ Effect e { s with inbox := rest } t) ∨
    (s.inbox = [] ∧ (t = s ∨ (s.status.mode = .busy ∧ ∃ r, s.run = some r ∧ MicroEffect 0 [] r s t))) := by
  unfold step takeEvent at h
  split at h
  · rename_i hi; exact .inr ⟨hi, engineStep_next h⟩
  · rename_i e rest hi; exact .inl ⟨e, rest, hi, onEvent_next h⟩

end Sys2Proof.Machine
end

