-- ==== Sys2Proof/Laws/PerInstr.lean ====
section
/-! SUPPORT. Per-instruction laws of the encoding: an instruction's word matches the fixed bits of its row of
spec/opcode_table.json and of no other row written to the same register. -/

namespace Sys2Proof.Laws.TableRow

/-- The mask and the match of the instruction's row. -/
def maskMatch : Instr → Word32 × Word32
  | .buildTw => (0xFFFFFFFF#32, 0x00000001#32)
  | .ntt => (0xFFFFFFFF#32, 0x00000002#32)
  | .bitrev => (0xFFFFFFFF#32, 0x00000003#32)
  | .srst _ => (0x00000001#32, 0x00000001#32)

/-- The instruction is well formed and its word has the fixed bits of its row. -/
def Statement (i : Instr) : Prop := i.wf = true ∧ encode i &&& (maskMatch i).1 = (maskMatch i).2

theorem buildTw : Statement .buildTw := ⟨rfl, by decide⟩

theorem ntt : Statement .ntt := ⟨rfl, by decide⟩

theorem bitrev : Statement .bitrev := ⟨rfl, by decide⟩

theorem srst (rsv : BitVec 31) : Statement (.srst rsv) := by
  refine ⟨rfl, ?_⟩
  show (rsv ++ 1#1) &&& 0x00000001#32 = 0x00000001#32
  apply BitVec.eq_of_getLsbD_eq
  intro k hk
  rw [BitVec.getLsbD_and, BitVec.getLsbD_append]
  rcases k with _ | k
  · rfl
  · simp

end Sys2Proof.Laws.TableRow
end

