-- ==== Sys2Proof/Tests/Slice0.lean ====
section
/-! SUPPORT. Small tests of single steps against the vectors of spec/95_test_vectors.md, the well-formedness smoke tests,
and a witness for the hypotheses of every statement. -/

namespace Sys2Proof.Tests

open Sys2Proof.Machine

/-! ## Helpers -/

/-- The memory with the words of a list at the indices 0, 1, ... -/
def memoryOf (vs : List Nat) : Memory := vs.zipIdx.map (fun x => (x.2, x.1))

/-- An idle block with `LEN`, `TWLEN`, `D[0..)` and `T[0..)` as given. -/
def idleState (c : Cfg) (len twlen : Nat) (d t : List Nat) : State :=
  { State.resetWith c with
    len := BitVec.ofNat 32 len, twlen := BitVec.ofNat 32 twlen, dmem := memoryOf d, tmem := memoryOf t }

/-- The same block in `FAULT` with code 6. -/
def faultState (c : Cfg) : State :=
  { State.resetWith c with status := { mode := .fault, done := false, err := some .twiddleLen } }

/-- What an outcome's next state shows. -/
def seen {α : Type} (f : State → α) : Host.Outcome State Fault Refusal → Option α
  | .next s => some (f s)
  | .fault _ => none
  | .refused _ => none

/-- The reason an outcome was refused. -/
def refusal : Host.Outcome State Fault Refusal → Option Refusal
  | .next _ => none
  | .fault _ => none
  | .refused r => some r

/-- The reason an outcome is a fault. -/
def stop : Host.Outcome State Fault Refusal → Option Fault
  | .next _ => none
  | .fault f => some f
  | .refused _ => none

/-- The words of `D`. -/
def words (m : Memory) : List Nat := m.map (fun x => x.2)

/-- `T17` with one lane and everything sequential unless said otherwise. -/
def c17 : Cfg := Cfg.t17 8 1

/-! ## Configurations (R5, R6, R7) -/

theorem test_t17_valid : (Cfg.t17 2 2).Valid :=
  { prime := by norm_num [Cfg.t17]
    three_le := by decide
    one_le_w := by decide
    w_low := by decide
    w_high := by decide
    adicity_le := by decide
    adicity_dvd := by decide
    root_length := by decide
    root_primitive := by decide
    one_le_logNmax := by decide
    logNmax_le := by decide
    one_le_mcs := by decide
    mcs_lt := by decide
    one_le_lanes := by decide }

theorem test_t97_valid : (Cfg.t97 2 2).Valid :=
  { prime := by norm_num [Cfg.t97]
    three_le := by decide
    one_le_w := by decide
    w_low := by decide
    w_high := by decide
    adicity_le := by decide
    adicity_dvd := by decide
    root_length := by decide
    root_primitive := by decide
    one_le_logNmax := by decide
    logNmax_le := by decide
    one_le_mcs := by decide
    mcs_lt := by decide
    one_le_lanes := by decide }

theorem test_invalid_modulus : ¬ ({ Cfg.t17 2 2 with p := 15 } : Cfg).Valid := fun h => by
  have := h.prime; norm_num at this
theorem test_invalid_even_modulus : ¬ ({ Cfg.t17 2 2 with p := 2 } : Cfg).Valid := fun h =>
  absurd h.three_le (by decide)
theorem test_invalid_width_zero : ¬ ({ Cfg.t17 2 2 with w := 0 } : Cfg).Valid := fun h =>
  absurd h.one_le_w (by decide)
theorem test_invalid_width_large : ¬ ({ Cfg.t17 2 2 with w := 6 } : Cfg).Valid := fun h =>
  absurd h.w_low (by decide)
theorem test_invalid_width_small : ¬ ({ Cfg.t17 2 2 with w := 4 } : Cfg).Valid := fun h =>
  absurd h.w_high (by decide)
theorem test_invalid_adicity_range : ¬ ({ Cfg.t17 2 2 with twoAdicity := 32 } : Cfg).Valid := fun h =>
  absurd h.adicity_le (by decide)
theorem test_invalid_adicity : ¬ ({ Cfg.t17 2 2 with twoAdicity := 5 } : Cfg).Valid := fun h =>
  absurd h.adicity_dvd (by decide)
theorem test_invalid_root_length : ¬ ({ Cfg.t17 2 2 with root := [1, 16] } : Cfg).Valid := fun h =>
  absurd h.root_length (by decide)
theorem test_invalid_root_order : ¬ ({ Cfg.t17 2 2 with root := [1, 16, 13, 13, 3] } : Cfg).Valid := fun h =>
  absurd (h.root_primitive 3) (by decide)
theorem test_invalid_depth : ¬ ({ Cfg.t17 2 2 with logNmax := 0 } : Cfg).Valid := fun h =>
  absurd h.one_le_logNmax (by decide)
theorem test_invalid_depth_large : ¬ ({ Cfg.t17 2 2 with logNmax := 32 } : Cfg).Valid := fun h =>
  absurd h.logNmax_le (by decide)
theorem test_invalid_crossover : ¬ ({ Cfg.t17 2 2 with mcs := 0 } : Cfg).Valid := fun h =>
  absurd h.one_le_mcs (by decide)
theorem test_invalid_crossover_large : ¬ ({ Cfg.t17 2 2 with mcs := 2 ^ 32 } : Cfg).Valid := fun h =>
  absurd h.mcs_lt (by decide)
theorem test_invalid_lanes : ¬ ({ Cfg.t17 2 2 with lanes := 0 } : Cfg).Valid := fun h =>
  absurd h.one_le_lanes (by decide)

/-! ## Well-formedness smoke (R60, R61, R14): each check refuses an ill-formed term -/

theorem test_wf_index_in_dmem : (HostOp.dRead 15).wf c17 = true := by decide
theorem test_wf_index_outside_dmem : (HostOp.dRead 16).wf c17 = false := by decide
theorem test_wf_write_outside_dmem : (HostOp.dWrite 16 1).wf c17 = false := by decide
theorem test_wf_data_too_wide : (HostOp.dWrite 0 32).wf c17 = false := by decide
theorem test_wf_index_outside_tmem : (HostOp.tRead 8).wf c17 = false := by decide
theorem test_wf_no_such_lane : (Event.engine 1 []).wf c17 = false := by decide
theorem test_wf_call_outside : (Event.call (.dRead 16)).wf c17 = false := by decide
theorem test_wf_post_outside : (Event.post (.tRead 8)).wf c17 = false := by decide
theorem test_stop_index : stop (hostOp false (.dRead 16) (idleState c17 0 0 [] [])) =
    some (.indexOutsideSpace .dmem 16) := by decide
theorem test_stop_data : stop (hostOp false (.dWrite 0 32) (idleState c17 0 0 [] [])) =
    some (.dataWiderThanPort 32) := by decide
theorem test_stop_lane : stop (onEvent (.engine 1 []) (idleState c17 0 0 [] [])) =
    some (.noSuchLane 1) := by decide

/-! ## Decoding (R91, R92, R94), each word written out bit by bit from the field tables -/

theorem test_decode_build_tw : decode 0#3 (0b0000000000000000000000000000#28 ++ 0b0001#4) = .ok .buildTw := by decide
theorem test_decode_ntt : decode 0#3 (0b0000000000000000000000000000#28 ++ 0b0010#4) = .ok .ntt := by decide
theorem test_decode_bitrev : decode 0#3 (0b0000000000000000000000000000#28 ++ 0b0011#4) = .ok .bitrev := by decide
theorem test_decode_srst : decode 4#3 (0b1010000000000000000000000000000#31 ++ 0b1#1) =
    .ok (.srst 0b1010000000000000000000000000000#31) := by decide
theorem test_decode_ctrl_zero : decode 4#3 0xFFFFFFFE#32 = .error (.controlNoOperation 0xFFFFFFFE#32) := by decide
theorem test_decode_len : decode 1#3 0x00000001#32 = .error (.notAnInstructionRegister 1#3) := by decide
theorem test_table_build_tw : decodeTableWord 32 1 = some .buildTw := by decide
theorem test_table_ntt : decodeTableWord 32 2 = some .ntt := by decide
theorem test_table_bitrev : decodeTableWord 32 3 = some .bitrev := by decide
theorem test_table_srst : decodeTableWord 8 1 = some (.srst 0#31) := by decide
theorem test_table_srst_wide : decodeTableWord 32 0xFFFFFFFF = some (.srst 0x7FFFFFFF#31) := by decide
theorem test_table_illegal : decodeTableWord 32 4 = none := by decide

/-! ## Kernel (spec/95_test_vectors.md section 2.1) -/

theorem test_fadd_carry : fadd c17 16 16 = 15 := by decide
theorem test_fsub_borrow : fsub c17 4 6 = 15 := by decide
theorem test_fsub_zero : fsub c17 0 0 = 0 := by decide
theorem test_fmul_negate : fmul c17 16 5 = 12 := by decide
theorem test_fexp_zero_zero : fexp c17 0 0 = 1 := by decide
theorem test_fexp_order : fexp (Cfg.t97 1 1) 28 16 = 96 := by decide
theorem test_froot_fails : froot c17 5 = .error .root := by decide
/-- spec/95_test_vectors.md: `ROOT[0..4]` of `G64`. -/
theorem test_g64_roots : (Cfg.g64 1 1).root.take 5 = [0x1, 0xFFFFFFFF00000000, 0x0001000000000000,
    0xFFFFFFFEFF000001, 0xEFFFFFFF00000001] ∧ (Cfg.g64 1 1).root.length = 33 := by decide

theorem test_g64_fmul : fmul (Cfg.g64 1 1) 0x123456789ABCDEF0 0x0FEDCBA987654321 = 0xCFAEAFD136C7BBAE := by decide
theorem test_g64_fadd_carry : fadd (Cfg.g64 1 1) 0x8000000000000000 0x8000000000000000 = 0xFFFFFFFF := by decide
theorem test_g64_fsub : fsub (Cfg.g64 1 1) 0xFFFFFFFF00000000 0x2 = 0xFFFFFFFEFFFFFFFE := by decide
theorem test_rev4 : (List.range 16).map (rev 4) =
    [0, 8, 4, 12, 2, 10, 6, 14, 1, 9, 5, 13, 3, 11, 7, 15] := by decide
theorem test_pser : words (pser c17 3 8 []) = [1, 3, 9, 10, 13, 5, 15, 11] := by decide

/-! ## Commands (sections 2.3 to 2.6) -/

theorem test_bitrev8 : seen (fun s => words s.dmem) (exec .bitrev (idleState c17 8 0 [3, 1, 4, 1, 5, 9, 2, 6] [])) =
    some [3, 5, 4, 2, 1, 9, 1, 6] := by decide
theorem test_bitrev_prefix_only :
    seen (fun s => (words s.dmem, s.status.word)) (exec .bitrev (idleState c17 4 0 [1, 2, 3, 4, 5, 6, 7, 8] [])) =
      some ([1, 3, 2, 4, 5, 6, 7, 8], 0x00000004#32) := by decide
theorem test_build_tw_8 : seen (fun s => (words s.tmem, s.twlen)) (exec .buildTw (idleState c17 8 0 [] [])) =
    some ([1, 13, 9, 15], 4#32) := by decide
theorem test_build_tw_t97_32 :
    seen (fun s => (words s.tmem, s.twlen)) (exec .buildTw (idleState (Cfg.t97 1 1) 32 0 [] [])) =
      some ([1, 22, 64, 50, 8, 79, 27, 12, 28, 34, 46, 42, 30, 78, 77, 45], 16#32) := by decide
theorem test_ntt_8 : seen (fun s => (words s.dmem, s.status.word))
    (exec .ntt (idleState c17 8 4 [1, 2, 3, 4, 5, 6, 7, 8] [1, 13, 9, 15])) =
      some ([2, 13, 12, 14, 1, 6, 3, 8], 0x00000004#32) := by decide
theorem test_ntt_g64 : seen (fun s => words s.dmem)
    (exec .ntt (idleState (Cfg.g64 1 1) 4 2 [1, 2, 3, 4] [0x1, 0x0001000000000000])) =
      some [0xA, 0xFFFFFFFEFFFFFFFF, 0xFFFDFFFEFFFFFFFF, 0x0001FFFFFFFFFFFE] := by decide
theorem test_stage_form_t97 : (nttStages (Cfg.t97 1 1) (memoryOf [1, 22, 64, 50]) 8 3 4
    (memoryOf [10, 20, 30, 40, 50, 60, 70, 80])) = .ok (memoryOf [69, 57, 50, 64, 49, 51, 63, 65]) := by decide
theorem test_srst_any_reserved_bits : seen (fun s => (s.len, s.status.word, s.twlen, words s.dmem))
    (step { idleState c17 0 0 [7] [] with
      len := 5#32, twlen := 4#32, status := { mode := .fault, done := false, err := some .nonCanon },
      inbox := [.call (.regWrite 4#3 0xFFFFFFFF#32)] }) = some (0#32, 0#32, 0#32, [7]) := by decide
theorem test_missing_word_refused : refusal (exec .bitrev (idleState c17 4 0 [1, 2, 3] [])) =
    some (.wordWithoutValue .dmem 3) := by decide

/-- The rows of section 2.6: `STATUS` after the word `v` is written to `CMD` with `LEN` and `TWLEN`. -/
def statusAfter (v len twlen : Nat) : Option Word32 :=
  seen (fun s => s.status.word) (hostOp false (lineCmdHex v) (idleState c17 len twlen [] []))

theorem test_check_illegal_before_length : statusAfter 5 12 4 = some 0x00000012#32 := by decide
theorem test_check_reserved_bit : statusAfter 0x12 8 4 = some 0x00000012#32 := by decide
theorem test_check_zero_length : statusAfter 2 0 0 = some 0x00000022#32 := by decide
theorem test_check_capacity_before_table : statusAfter 2 32 4 = some 0x00000032#32 := by decide
theorem test_check_length_one : statusAfter 1 1 0 = some 0x00000042#32 := by decide
theorem test_check_larger_table : statusAfter 2 4 4 = some 0x00000062#32 := by decide
theorem test_check_ntt_one : statusAfter 2 1 1 = some 0x00000062#32 := by decide
theorem test_check_root : seen (fun s => s.status.word)
    (exec .buildTw (idleState { c17 with logNmax := 6 } 32 4 [] [])) = some 0x00000052#32 := by decide

/-! ## Host port and the busy block (section 2.7) -/

theorem test_len_any_value : seen (fun s => regValue s 1#3)
    (hostOp false (.regWrite 1#3 0xFFFFFFFF#32) (idleState c17 0 0 [] [])) = some 0xFFFFFFFF#32 := by decide
theorem test_read_only_ignored : seen (fun s => (regValue s 2#3, regValue s 3#3, regValue s 5#3))
    (hostOp false (.regWrite 5#3 1#32) (idleState c17 0 0 [] [])) = some (0#32, 0#32, 8#32) := by decide
theorem test_dwrite_noncanonical : seen (fun s => (s.status.word, words s.dmem))
    (hostOp false (.dWrite 0 17) (idleState c17 0 0 [16] [])) = some (0x00000072#32, [16]) := by decide
theorem test_dwrite_ignored_in_fault : seen (fun s => words s.dmem)
    (hostOp false (.dWrite 0 5) (faultState c17)) = some [] := by decide

/-- `NTT` of section 2.7, posted. -/
def posted8 : State :=
  match hostOp true (lineCmd .ntt) (idleState c17 8 4 [1, 2, 3, 4, 5, 6, 7, 8] [1, 13, 9, 15]) with
  | .next s => s
  | .fault _ => State.reset
  | .refused _ => State.reset

theorem test_status_busy : seen (fun s => s.replies) (hostOp false (.regRead 2#3) posted8) =
    some [.reg 2#3 0x00000001#32] := by decide
theorem test_busy_holds_read : seen (fun s => (s.replies, s.run.map (fun r => r.held)))
    (hostOp true (.dRead 0) posted8) = some ([], some [.post (.dRead 0)]) := by decide
theorem test_reset_ends_command : seen (fun s => (s.run, s.status.word, words s.dmem, s.cfg))
    (hostOp false .reset posted8) = some (none, 0#32, [], c17) := by decide
/-- Row 4 of the butterfly table in section 2.5. -/
theorem test_combine_butterfly : taskStep c17 8 (memoryOf [1, 13, 9, 15]) Lane.clear
    (memoryOf [16, 2, 13, 4, 13, 6, 13, 8]) [] (.combine 0 2 1) =
      .ok (.combine 0 2 2, { ev := 13, od := 13, twd := 13, pr := 16 },
        memoryOf [16, 2, 13, 4, 12, 6, 14, 8]) := by decide
/-- `z/2 = 4 >= MIN_CONCURRENT_SIZE = 4` forks, and the path picks the odd child. -/
theorem test_fork_takes_odd_child : (taskStep (Cfg.t17 4 2) 8 [] Lane.clear [] [true]
    (.join 0 1 true (.descend 0 2) (.descend 1 2))).toOption.map (fun x => x.1) =
      some (.join 0 1 true (.descend 0 2) (.join 1 2 false (.descend 1 4) (.descend 3 4))) := by decide

/-! ## The interface words run from reset (withFetchWord) -/

theorem test_first_step_srst : seen (fun s => s.status.word) (step (State.reset.withFetchWord 8 1)) =
    some 0#32 := by decide
theorem test_first_step_ntt : seen (fun s => s.status.word) (step (State.reset.withFetchWord 32 2)) =
    some 0x00000022#32 := by decide

end Sys2Proof.Tests
end

