-- ==== Sys2Proof/Tests/Witnesses.lean ====
section
/-! SUPPORT. For every statement that has hypotheses, a concrete state and operands that meet all of them together, and
for a statement of several clauses one for each clause, at a boundary of its range. -/

namespace Sys2Proof.Tests

open Sys2Proof.Machine

/-- `T17` with crossover 2 and two lanes. -/
def cw : Cfg := Cfg.t17 2 2

/-- Idle, `LEN = 4`, the table for 4, `D[0..4) = 1, 2, 3, 4`. -/
def sw : State := idleState cw 4 2 [1, 2, 3, 4] [1, 13]

/-- The sequence 1, 2, 3, ... -/
def upFrom1 (k : Nat) : Nat := k + 1

theorem ready_sw : Ready sw 2 := ⟨rfl, by decide, by decide⟩

theorem nttReady_sw : NttReady sw 2 :=
  ⟨ready_sw, by decide, by decide, by unfold TableFor Memory.Holds; decide⟩

theorem holds_sw : sw.dmem.Holds (2 ^ 2) upFrom1 := by unfold Memory.Holds; decide

theorem canonical_sw : ∀ k, k < 2 ^ 2 → upFrom1 k < sw.cfg.p := by decide

/-- The smallest transform: `LEN = 2`, `TWLEN = 1`. -/
theorem nttReady_two : NttReady (idleState cw 2 1 [3, 5] [1]) 1 :=
  ⟨⟨rfl, by decide, by decide⟩, by decide, by decide, by unfold TableFor Memory.Holds; decide⟩

theorem tableInv_of {s : State} {m : Nat} (hm : 1 ≤ m) (h : s.twlen.toNat = 2 ^ (m - 1))
    (ht : TableFor s.cfg m s.tmem) : TableInv s := by
  intro m' hm' h'
  have : m' - 1 = m - 1 := Nat.pow_right_injective (le_refl 2) (h'.symm.trans h)
  have : m' = m := by omega
  subst this; exact ht

theorem blockInv_sw : BlockInv sw where
  form := ⟨by decide, by decide⟩
  flags := ⟨by decide, by decide, by decide⟩
  dmem_within := by unfold Memory.Within; decide
  tmem_within := by unfold Memory.Within; decide
  dmem_canonical := by unfold Memory.Canonical; decide
  tmem_canonical := by unfold Memory.Canonical; decide
  twlen_legal := .inr ⟨2, by decide, by decide, by decide, by decide⟩
  table := fun _ => tableInv_of (m := 2) (by decide) (by decide) nttReady_sw.table
  progress := fun r h => by cases h

/-- `sw` with one event waiting. -/
def swThen (e : Event) : State := { sw with inbox := [e] }

theorem blockInv_swThen (e : Event) : BlockInv (swThen e) where
  form := ⟨blockInv_sw.form.dmem, blockInv_sw.form.tmem⟩
  flags := ⟨blockInv_sw.flags.err_iff, blockInv_sw.flags.done_idle, blockInv_sw.flags.run_iff⟩
  dmem_within := blockInv_sw.dmem_within
  tmem_within := blockInv_sw.tmem_within
  dmem_canonical := blockInv_sw.dmem_canonical
  tmem_canonical := blockInv_sw.tmem_canonical
  twlen_legal := blockInv_sw.twlen_legal
  table := blockInv_sw.table
  progress := fun r h => by cases h

/-- The hidden state of a `BUILD_TW` of size 8 that has written `T[0..2) = 1, 9`. -/
def runBuild : Run :=
  { opl := 1#4, nl := 8#32, seq := .series 2, lanes := [], acc := 13, gen := 9, tmp := 0, held := [] }

/-- A block in the middle of that command. -/
def sBuilding : State :=
  { idleState cw 8 2 [] [1, 9] with
    status := { mode := .busy, done := false, err := none }, run := some runBuild }

theorem blockInv_building : BlockInv sBuilding where
  form := ⟨by decide, by decide⟩
  flags := ⟨by decide, by decide, by decide⟩
  dmem_within := by unfold Memory.Within; decide
  tmem_within := by unfold Memory.Within; decide
  dmem_canonical := by unfold Memory.Canonical; decide
  tmem_canonical := by unfold Memory.Canonical; decide
  twlen_legal := .inr ⟨2, by decide, by decide, by decide, by decide⟩
  table := fun h => absurd rfl h
  progress := fun r h => by
    cases h
    exact ⟨3, by decide, by decide, by decide, by decide, by decide, by decide, by decide, by decide,
      by unfold Memory.Holds; decide⟩

/-- A running `NTT` whose last butterfly has been performed, with one read held. -/
def sRetiring : State :=
  { posted8 with run := posted8.run.map (fun r =>
      { r with seq := .tasks (.done 0 1), held := [.post (.dRead 0)] }) }

/-! ## One theorem per statement -/

theorem witness_IllegalWordsFaultAndDecoderIsTotal :
    (sw.status.mode = .idle ∧ decodeC 5#32 = .error (.illegalCommand 5#32)) ∧
    fieldSrst 0xFFFFFFFF#32 = fieldSrst 1#32 ∧ sw.status.mode ≠ .busy ∧ (7#3 = 6#3 ∨ 7#3 = 7#3) := by decide

theorem witness_StepRunsDecodedInstruction :
    (swThen (.call (.regWrite 0#3 2#32))).inbox = .call (.regWrite 0#3 2#32) :: [] ∧
    decode 0#3 2#32 = .ok .ntt ∧
    (swThen (.post (.regWrite regCmd 2#32))).inbox = .post (.regWrite regCmd 2#32) :: [] ∧
    (swThen (.post (.regWrite regCmd 2#32))).status.mode = .idle ∧
    decodeTableWord 32 3 = some .bitrev := by decide

theorem witness_SoftResetState :
    (faultState cw).status.mode ≠ .busy ∧ posted8.status.mode = .busy ∧
    (idleState cw 4 0 [] []).status.mode = .idle ∧ (idleState cw 4 0 [] []).twlen = 0#32 := by decide

theorem witness_RegisterWritesInIdle :
    sw.status.mode = .idle ∧ fieldSrst 0xFFFFFFFE#32 = 0#1 ∧ fieldSrst 1#32 = 1#1 := by decide

theorem witness_ReadsReturnAndChangeNothing :
    sw.status.mode ≠ .busy ∧ (faultState cw).status.mode ≠ .busy ∧
    (3 < sw.cfg.nmax ∧ sw.dmem.read 3 = some 4) ∧
    (7 < (idleState cw 4 2 [] [1, 13, 9, 15, 3, 5, 10, 11]).cfg.nmax / 2 ∧
      (idleState cw 4 2 [] [1, 13, 9, 15, 3, 5, 10, 11]).tmem.read 7 = some 11) ∧
    (15 < sw.cfg.nmax ∧ sw.dmem.read 15 = none) ∧ (7 < sw.cfg.nmax / 2 ∧ sw.tmem.read 7 = none) := by decide

theorem witness_DataWriteChecksCanonical :
    15 < sw.cfg.nmax ∧ 16 < 2 ^ sw.cfg.w ∧ 16 < sw.cfg.p ∧ 17 < 2 ^ sw.cfg.w ∧ sw.cfg.p ≤ 17 ∧
    sw.status.mode = .idle ∧ (faultState cw).status.mode = .fault ∧ posted8.status.mode = .busy := by decide

theorem flagsInv_posted8 : FlagsInv posted8 := ⟨by decide, by decide, by decide⟩

theorem witness_BusyHoldsHostOperations :
    FlagsInv posted8 ∧ posted8.status.mode = .busy ∧ (∃ r, posted8.run = some r) ∧
    portFault posted8.cfg (.dRead 15) = none := ⟨flagsInv_posted8, by decide, ⟨_, rfl⟩, by decide⟩

theorem witness_CommandsOutsideIdle :
    (faultState cw).status.mode = .fault ∧ posted8.status.mode = .busy := by decide

theorem witness_BuildTwBuildsTheTable :
    sw.cfg.Valid ∧ (Ready sw 2 ∧ 1 ≤ 2 ∧ 2 ≤ sw.cfg.twoAdicity) ∧
    (Ready (idleState cw 2 0 [] []) 1 ∧ 1 ≤ 1) ∧
    (Ready (idleState cw 16 0 [] []) 4 ∧ 4 ≤ (idleState cw 16 0 [] []).cfg.twoAdicity) :=
  ⟨test_t17_valid, ⟨ready_sw, by decide, by decide⟩, ⟨⟨rfl, by decide, by decide⟩, by decide⟩,
    ⟨rfl, by decide, by decide⟩, by decide⟩

theorem witness_NttEvaluatesPolynomial :
    (sw.cfg.Valid ∧ NttReady sw 2 ∧ sw.dmem.Holds (2 ^ 2) upFrom1 ∧ ∀ k, k < 2 ^ 2 → upFrom1 k < sw.cfg.p) ∧
    NttReady (idleState cw 2 1 [3, 5] [1]) 1 :=
  ⟨⟨test_t17_valid, nttReady_sw, holds_sw, canonical_sw⟩, nttReady_two⟩

theorem witness_NttThenBitrevNaturalOrder :
    sw.cfg.Valid ∧ NttReady sw 2 ∧ sw.dmem.Holds (2 ^ 2) upFrom1 ∧ ∀ k, k < 2 ^ 2 → upFrom1 k < sw.cfg.p :=
  ⟨test_t17_valid, nttReady_sw, holds_sw, canonical_sw⟩

/-- A memory of four words reads as no value from index 4 on. -/
theorem read_four (a b c d k : Nat) (hk : 4 ≤ k) : (memoryOf [a, b, c, d]).read k = none := by
  simp only [memoryOf, List.zipIdx_cons, List.zipIdx_nil, List.map_cons, List.map_nil, Memory.read]
  rw [if_neg (by omega), if_neg (by omega), if_neg (by omega), if_neg (by omega)]

theorem sameFrom_four (a b c d a' b' c' d' : Nat) :
    Memory.SameFrom (2 ^ 2) (memoryOf [a, b, c, d]) (memoryOf [a', b', c', d']) := fun k hk => by
  rw [read_four _ _ _ _ k hk, read_four _ _ _ _ k hk]

/-- The sequence of a list of four values. -/
def four (a b c d k : Nat) : Nat := [a, b, c, d].getD k 0

theorem holds_four (a b c d : Nat) : (memoryOf [a, b, c, d]).Holds (2 ^ 2) (four a b c d) := by
  intro k hk
  have : k = 0 ∨ k = 1 ∨ k = 2 ∨ k = 3 := by omega
  rcases this with rfl | rfl | rfl | rfl <;> simp [memoryOf, Memory.read, four]

/-- The rows of section 2.5 for `n = 4`. -/
theorem nttGives_first : NttGives sw 2 (memoryOf [1, 2, 3, 4]) (four 10 15 6 7) :=
  ⟨memoryOf [10, 15, 6, 7], rfl, holds_four _ _ _ _, sameFrom_four _ _ _ _ _ _ _ _⟩

theorem nttGives_second : NttGives sw 2 (memoryOf [5, 0, 16, 7]) (four 11 14 0 12) :=
  ⟨memoryOf [11, 14, 0, 12], rfl, holds_four _ _ _ _, sameFrom_four _ _ _ _ _ _ _ _⟩

theorem witness_NttConsequences :
    sw.cfg.Valid ∧ NttReady sw 2 ∧
    (∀ k, k < 2 ^ 2 → four 1 2 3 4 k < sw.cfg.p ∧ four 5 0 16 7 k < sw.cfg.p) ∧
    (memoryOf [6, 2, 2, 11]).Holds (2 ^ 2) (fun k => fadd sw.cfg (four 1 2 3 4 k) (four 5 0 16 7 k)) ∧
    NttGives sw 2 (memoryOf [1, 2, 3, 4]) (four 10 15 6 7) ∧
    NttGives sw 2 (memoryOf [5, 0, 16, 7]) (four 11 14 0 12) ∧
    (memoryOf [16, 15, 14, 13]).Holds (2 ^ 2) (fun k => fmul sw.cfg 16 (four 1 2 3 4 k)) ∧
    (memoryOf [0, 0, 0, 0]).Holds (2 ^ 2) (fun _ => 0) ∧
    (memoryOf [16, 0, 0, 0]).Holds (2 ^ 2) (fun k => if k = 0 then 16 else 0) ∧
    (memoryOf [16, 16, 16, 16]).Holds (2 ^ 2) (fun _ => 16) :=
  ⟨test_t17_valid, nttReady_sw, by decide, by unfold Memory.Holds; decide, nttGives_first, nttGives_second,
    by unfold Memory.Holds; decide, by unfold Memory.Holds; decide, by unfold Memory.Holds; decide,
    by unfold Memory.Holds; decide⟩

theorem witness_PermutationUnitReversesIndices :
    sw.dmem.Holds (2 ^ 2) upFrom1 ∧ (memoryOf [7]).Holds (2 ^ 0) (fun _ => 7) :=
  ⟨holds_sw, by unfold Memory.Holds; decide⟩

theorem witness_BitrevPermutesSequence :
    (Ready sw 2 ∧ sw.dmem.Holds (2 ^ 2) upFrom1) ∧
    (Ready (idleState cw 1 0 [7] []) 0 ∧ (idleState cw 1 0 [7] []).dmem.Holds (2 ^ 0) (fun _ => 7)) :=
  ⟨⟨ready_sw, holds_sw⟩, ⟨rfl, by decide, by decide⟩, by unfold Memory.Holds; decide⟩

theorem witness_BitrevTwiceRestores : Ready sw 2 ∧ sw.dmem.Holds (2 ^ 2) upFrom1 := ⟨ready_sw, holds_sw⟩

theorem witness_CommandOnMissingWordIsRefused :
    Ready (idleState cw 4 2 [1, 2, 3] [1, 13]) 2 ∧ 2 ^ 2 = 2 * (idleState cw 4 2 [1, 2, 3] [1, 13]).twlen.toNat ∧
    3 < 2 ^ 2 ∧ (idleState cw 4 2 [1, 2, 3] [1, 13]).dmem.read 3 = none ∧
    ∀ l, l < 3 → ((idleState cw 4 2 [1, 2, 3] [1, 13]).dmem.read l).isSome = true :=
  ⟨⟨rfl, by decide, by decide⟩, by decide, by decide, by decide, by decide⟩

theorem witness_CommandsTouchOnlyTheirSequence :
    Ready sw 2 ∧ ∀ k, k < 2 ^ 2 → (memoryOf [1, 2, 3, 4, 5]).read k = sw.dmem.read k :=
  ⟨ready_sw, by decide⟩

theorem witness_CommandCheckOrder :
    (4#32 ≠ 1#32 ∧ 4#32 ≠ 2#32 ∧ 4#32 ≠ 3#32) ∧ (∀ m, (0#32).toNat ≠ 2 ^ m) ∧
    ((32#32).toNat = 2 ^ 5 ∧ cw.nmax < 2 ^ 5) ∧ ((16#32).toNat = 2 ^ 4 ∧ 2 ^ 4 ≤ cw.nmax) ∧
    ((1#32).toNat = 2 ^ 0 ∧ 2 ^ 0 ≤ cw.nmax) ∧
    ((32#32).toNat = 2 ^ 5 ∧ 2 ^ 5 ≤ ({ cw with logNmax := 6 } : Cfg).nmax ∧ cw.twoAdicity < 5) ∧
    (2 ^ 2 ≠ 2 * (4#32).toNat) ∧ (2 ^ 3 = 2 * (4#32).toNat) ∧
    (cw.logNmax ≤ 31 ∧ (8#32).toNat ≤ cw.nmax / 2) := by
  refine ⟨by decide, fun m h => ?_, by decide, by decide, by decide, by decide, by decide, by decide, by decide⟩
  exact absurd h (Nat.two_pow_pos m).ne

theorem witness_FaultEntryIsPrecise :
    sw.status.mode = .idle ∧ check sw.cfg 5#32 sw.len sw.twlen = some .illegalCmd ∧
    checkLength (idleState cw 8 2 [] []).cfg .ntt (idleState cw 8 2 [] []).len (idleState cw 8 2 [] []).twlen =
      some .twiddleLen ∧
    15 < sw.cfg.nmax ∧ 17 < 2 ^ sw.cfg.w ∧ sw.cfg.p ≤ 17 := by decide

theorem witness_OnlyChecksRaiseFaults :
    sw.NoFault ∧ (∃ t, onEvent (.call (.regWrite 0#3 5#32)) sw = .next t ∧ ¬ t.NoFault) ∧
    (∃ t, onEvent (.post (.dWrite 0 17)) sw = .next t ∧ ¬ t.NoFault) :=
  ⟨by unfold State.NoFault; decide, ⟨_, rfl, fun h => h rfl⟩, ⟨_, rfl, fun h => h rfl⟩⟩

theorem witness_FaultIsSticky :
    (faultState cw).status.mode = .fault ∧ (∃ t, onEvent (.call (.dWrite 0 5)) (faultState cw) = .next t) ∧
    ({ faultState cw with dmem := [(0, 16)] } : State).dmem.read 0 = some 16 ∧
    (7 < (faultState cw).cfg.nmax / 2 ∧ ({ faultState cw with tmem := [(7, 16)] } : State).tmem.read 7 = some 16) ∧
    fieldSrst 0xFFFFFFFF#32 = 1#1 :=
  ⟨rfl, ⟨_, rfl⟩, rfl, ⟨by decide, rfl⟩, by decide⟩

theorem witness_IssueLatchesOperands :
    (sw.cfg.Valid ∧ Ready sw 2 ∧ (∃ x, sw.dmem.Holds (2 ^ 2) x) ∧ NttReady sw 2) ∧
    (Ready (idleState cw 16 0 [] []) 4 ∧ 1 ≤ 4 ∧ 4 ≤ (idleState cw 16 0 [] []).cfg.twoAdicity) ∧
    (Ready (idleState cw 1 0 [7] []) 0 ∧ ∃ x, (idleState cw 1 0 [7] []).dmem.Holds (2 ^ 0) x) :=
  ⟨⟨test_t17_valid, ready_sw, ⟨_, holds_sw⟩, nttReady_sw⟩, ⟨⟨rfl, by decide, by decide⟩, by decide, by decide⟩,
    ⟨rfl, by decide, by decide⟩, fun _ => 7, by unfold Memory.Holds; decide⟩

theorem witness_RetireReleasesHeldOperations :
    sRetiring.status.mode = .busy ∧ (∃ r, sRetiring.run = some r) ∧
    ∃ t, onEvent (.engine 0 []) sRetiring = .next t ∧ t.status.mode ≠ .busy :=
  ⟨rfl, ⟨_, rfl⟩, ⟨_, rfl, by decide⟩⟩

theorem witness_ForkAndJoinDispatch :
    2 < 8 / 1 ∧ (4 / 2 = 2 ∧ ∃ x, taskStep cw 4 [] Lane.clear (memoryOf [1, 2, 3, 4]) [] (.descend 0 2) = .ok x) ∧
    4 / 4 ≤ 1 ∧ (Task.done 0 2).isDone = true ∧ (Task.descend 1 2).isDone = false ∧
    (∃ x, taskStep cw 4 [] Lane.clear (memoryOf [1, 2, 3, 4]) [] (.join 0 1 true (.descend 0 2) (.descend 1 2)) =
      .ok x) ∧
    (∃ x, taskStep cw 4 [] Lane.clear (memoryOf [1, 2, 3, 4]) [true]
      (.join 0 1 true (.descend 0 2) (.descend 1 2)) = .ok x) ∧
    (∃ x, taskStep cw 4 (memoryOf [1, 13]) Lane.clear (memoryOf [4, 6, 15, 15]) [] (.combine 0 1 1) = .ok x) ∧
    (∃ x, taskStep cw 4 (memoryOf [1, 13]) Lane.clear (memoryOf [4, 6, 15, 15]) [] (.combine 0 1 2) = .ok x) :=
  ⟨by decide, ⟨rfl, _, rfl⟩, by decide, rfl, rfl, ⟨_, rfl⟩, ⟨_, rfl⟩, ⟨_, rfl⟩, ⟨_, rfl⟩⟩

theorem witness_EveryScheduleReachesAtomicResult :
    sw.cfg.Valid ∧ BlockInv sw ∧ sw.status.mode = .idle ∧
    (∃ s0, hostOp true (.regWrite (encodeReg .ntt) (encode .ntt)) sw = .next s0 ∧ s0.status.mode = .busy) ∧
    (∃ s0, hostOp true (.regWrite (encodeReg .buildTw) (encode .buildTw)) sw = .next s0 ∧
      s0.status.mode = .busy) ∧
    (∃ s0, hostOp true (.regWrite (encodeReg .bitrev) (encode .bitrev)) sw = .next s0 ∧
      s0.status.mode = .busy) ∧ 1 < sw.cfg.lanes :=
  ⟨test_t17_valid, blockInv_sw, rfl, ⟨_, rfl, rfl⟩, ⟨_, rfl, rfl⟩, ⟨_, rfl, rfl⟩, by decide⟩

theorem witness_StageFormEqualsRecursiveForm :
    1 < cw.p ∧ 1 ≤ 2 ∧ (memoryOf [1, 2, 3, 4]).wf ∧ (memoryOf [1, 2, 3, 4]).Holds (2 ^ 2) upFrom1 ∧
    (∀ k, k < 2 ^ 2 → upFrom1 k < cw.p) ∧
    (memoryOf [1, 13]).Holds (2 ^ (2 - 1)) (fun k => if k = 0 then 1 else 13) ∧
    (∀ k, k < 2 ^ (2 - 1) → (if k = 0 then 1 else 13) < cw.p) :=
  ⟨by decide, by decide, by decide, holds_sw, by decide, by unfold Memory.Holds; decide, by decide⟩

/-- The odd pair of the first stage before the even one, then the second stage. -/
theorem witness_EveryDependenceOrderGivesSameResult :
    (∃ r, dataflowRun cw (memoryOf [1, 13]) (2 ^ 2) [(2, 1), (2, 0), (1, 2), (1, 0)] []
      (memoryOf [1, 2, 3, 4]) = some r) ∧
    [(2, 1), (2, 0), (1, 2), (1, 0)].length = 2 ^ 2 / 2 * 2 := ⟨⟨_, rfl⟩, rfl⟩

theorem witness_SubTransformFootprint :
    4 / 2 = 2 ^ 1 ∧ (∃ d', nttSub cw [] 4 1 1 2 (memoryOf [1, 2, 3, 4]) = .ok d') ∧ 0 < 2 ∧
    (∀ j, j < 4 / 2 / 2 → (memoryOf [1, 5]).read j = (memoryOf [1, 13]).read j) ∧
    (∀ k, k < 4 / 2 → (memoryOf [9, 2, 9, 4]).read (1 + k * 2) = (memoryOf [1, 2, 3, 4]).read (1 + k * 2)) :=
  ⟨by decide, ⟨_, rfl⟩, by decide, by decide, by decide⟩

theorem witness_StepKeepsMemoryForm :
    MemoryForm (swThen (.call (.regWrite 0#3 1#32))) ∧
    ∃ t, step (swThen (.call (.regWrite 0#3 1#32))) = .next t ∧ t.tmem = memoryOf [1, 13] :=
  ⟨(blockInv_swThen _).form, ⟨_, rfl, by decide⟩⟩

theorem witness_StepKeepsFlagsInvariant :
    FlagsInv posted8 ∧ ∃ t, step posted8 = .next t ∧ t ≠ posted8 :=
  ⟨flagsInv_posted8, ⟨_, rfl, by decide⟩⟩

theorem witness_StepKeepsBlockInvariant :
    ((swThen (.call (.regWrite 0#3 2#32))).cfg.Valid ∧ BlockInv (swThen (.call (.regWrite 0#3 2#32))) ∧
      ∃ t, step (swThen (.call (.regWrite 0#3 2#32))) = .next t) ∧
    (sBuilding.cfg.Valid ∧ BlockInv sBuilding ∧ ∃ t, step sBuilding = .next t ∧ t.tmem ≠ sBuilding.tmem) :=
  ⟨⟨test_t17_valid, blockInv_swThen _, ⟨_, rfl⟩⟩, test_t17_valid, blockInv_building, ⟨_, rfl, by decide⟩⟩

theorem witness_ConfigurationNeverChanges :
    ∃ t, step (swThen (.call (.regWrite 5#3 9#32))) = .next t := ⟨_, rfl⟩

theorem witness_OnlyBuildTwWritesTable :
    (BlockInv (idleState cw 8 0 [] []) ∧
      ∃ t, onEvent (.call (.regWrite 0#3 1#32)) (idleState cw 8 0 [] []) = .next t ∧
        t.tmem ≠ (idleState cw 8 0 [] []).tmem) ∧
    (BlockInv sBuilding ∧ ∃ t, onEvent (.engine 1 []) sBuilding = .next t ∧ t.tmem ≠ sBuilding.tmem) := by
  refine ⟨⟨?_, _, rfl, by decide⟩, blockInv_building, _, rfl, by decide⟩
  exact
    { form := ⟨by decide, by decide⟩
      flags := ⟨by decide, by decide, by decide⟩
      dmem_within := by unfold Memory.Within; decide
      tmem_within := by unfold Memory.Within; decide
      dmem_canonical := by unfold Memory.Canonical; decide
      tmem_canonical := by unfold Memory.Canonical; decide
      twlen_legal := .inl rfl
      table := fun _ m _ h => absurd h (Nat.two_pow_pos (m - 1)).ne
      progress := fun r h => by cases h }

theorem witness_LenWriters :
    (∃ t, onEvent (.call (.regWrite 1#3 8#32)) sw = .next t ∧ t.len ≠ sw.len) ∧
    (∃ t, onEvent (.post (.regWrite 4#3 1#32)) sw = .next t ∧ t.len ≠ sw.len) :=
  ⟨⟨_, rfl, by decide⟩, ⟨_, rfl, by decide⟩⟩

theorem witness_TwlenWriters :
    (∃ t, onEvent (.call .reset) sw = .next t ∧ t.twlen ≠ sw.twlen) ∧
    (∃ t, onEvent (.call (.regWrite 0#3 1#32)) (idleState cw 8 2 [] []) = .next t ∧ t.twlen ≠ 2#32) ∧
    (∃ t, onEvent (.engine 0 []) { sBuilding with run := some { runBuild with seq := .permuteTable 4 } } =
      .next t ∧ t.twlen ≠ 2#32) :=
  ⟨⟨_, rfl, by decide⟩, ⟨_, rfl, by decide⟩, ⟨_, rfl, by decide⟩⟩

theorem witness_QuietBlockWaits : sw.inbox = [] ∧ sw.status.mode ≠ .busy := by decide

theorem witness_FaddResult : cw.Valid ∧ 16 < cw.p ∧ 1 < cw.p := ⟨test_t17_valid, by decide, by decide⟩
theorem witness_FsubResult : cw.Valid ∧ 0 < cw.p ∧ 16 < cw.p := ⟨test_t17_valid, by decide, by decide⟩
theorem witness_FmulResult : cw.Valid ∧ 16 < cw.p ∧ 16 < cw.p := ⟨test_t17_valid, by decide, by decide⟩
theorem witness_FieldLaws : cw.Valid ∧ 16 < cw.p ∧ 9 < cw.p ∧ 0 < cw.p :=
  ⟨test_t17_valid, by decide, by decide, by decide⟩
theorem witness_FexpAndFrootResults : cw.Valid ∧ 16 < cw.p ∧ cw.twoAdicity < 5 ∧ 4 ≤ cw.twoAdicity :=
  ⟨test_t17_valid, by decide, by decide, by decide⟩

theorem witness_SwapExchangesTwoWords :
    1 ≠ 2 ∧ sw.dmem.read 1 = some 2 ∧ sw.dmem.read 2 = some 3 ∧ rev 2 3 = 3 := by decide

theorem witness_ButterflyResults :
    cw.Valid ∧ 0 < 1 ∧ (memoryOf [6, 10]).read 0 = some 6 ∧ (memoryOf [6, 10]).read 1 = some 10 ∧
    (memoryOf [13]).read 0 = some 13 ∧ 6 < cw.p ∧ 10 < cw.p ∧ 13 < cw.p ∧ 11 = fmul cw 13 10 :=
  ⟨test_t17_valid, by decide, by decide, by decide, by decide, by decide, by decide, by decide, by decide⟩

theorem witness_PowerSeriesResult : cw.Valid ∧ 9 < cw.p ∧ 1 < cw.p := ⟨test_t17_valid, by decide, by decide⟩

theorem witness_BitReversalFacts :
    5 < 2 ^ 3 ∧ 1 ≤ 3 ∧ 3 < 2 ^ (3 - 1) ∧ 2 ≤ 3 ∧ 3 < 2 ^ 2 := by decide

theorem witness_TablePrefixProperty :
    cw.Valid ∧ 1 ≤ 2 ∧ 2 ≤ 3 ∧ 3 ≤ cw.twoAdicity ∧ TableFor cw 3 (memoryOf [1, 13, 9, 15]) :=
  ⟨test_t17_valid, by decide, by decide, by decide, by unfold TableFor Memory.Holds; decide⟩

theorem witness_TablePairProperty :
    cw.Valid ∧ 2 ≤ 3 ∧ 3 ≤ cw.twoAdicity ∧ TableFor cw 3 (memoryOf [1, 13, 9, 15]) ∧ 1 < 2 ^ 3 / 4 :=
  ⟨test_t17_valid, by decide, by decide, by unfold TableFor Memory.Holds; decide, by decide⟩

end Sys2Proof.Tests
end

section
/-! Bit reversal of indices (R10): the recursion read at either end of the index, and what follows from it. -/

namespace Sys2Proof.Machine

@[simp] theorem rev_zero_width (i : Nat) : rev 0 i = 0 := rfl

/-- The low bit of `i` becomes the high bit of the result. -/
theorem rev_succ (m i : Nat) : rev (m + 1) i = i % 2 * 2 ^ m + rev m (i / 2) := rfl

@[simp] theorem rev_two_mul (m i : Nat) : rev (m + 1) (2 * i) = rev m i := by
  simp [rev_succ]

@[simp] theorem rev_two_mul_add_one (m i : Nat) : rev (m + 1) (2 * i + 1) = rev m i + 2 ^ m := by
  have hmod : (2 * i + 1) % 2 = 1 := by omega
  have hdiv : (2 * i + 1) / 2 = i := by omega
  rw [rev_succ, hmod, hdiv, one_mul, Nat.add_comm]

theorem rev_lt_two_pow (m i : Nat) : rev m i < 2 ^ m := by
  induction m generalizing i with
  | zero => simp [rev_zero_width]
  | succ m ih =>
    have hlow := ih (i / 2)
    rw [rev_succ, Nat.pow_succ]
    obtain hbit | hbit := Nat.mod_two_eq_zero_or_one i <;> rw [hbit] <;> omega

/-- Peeled at the other end: bit `m` of `i` becomes the low bit of the result. -/
theorem rev_succ_low (m i : Nat) : rev (m + 1) i = 2 * rev m i + i / 2 ^ m % 2 := by
  induction m generalizing i with
  | zero => simp [rev]
  | succ m ih =>
    have hdiv : i / 2 / 2 ^ m = i / 2 ^ (m + 1) := by rw [Nat.div_div_eq_div_mul, Nat.pow_succ']
    calc rev (m + 2) i = i % 2 * 2 ^ (m + 1) + rev (m + 1) (i / 2) := rev_succ (m + 1) i
      _ = i % 2 * 2 ^ (m + 1) + (2 * rev m (i / 2) + i / 2 ^ (m + 1) % 2) := by rw [ih, hdiv]
      _ = 2 * rev (m + 1) i + i / 2 ^ (m + 1) % 2 := by rw [rev_succ]; ring

/-- Reversing twice keeps the low `m` bits: one `rev` is peeled at its high bit, the other at its low bit. -/
theorem rev_rev_eq_mod (m i : Nat) : rev m (rev m i) = i % 2 ^ m := by
  induction m with
  | zero => simp [rev_zero_width, Nat.mod_one]
  | succ m ih =>
    have hmod : rev (m + 1) i % 2 = i / 2 ^ m % 2 := by rw [rev_succ_low]; omega
    have hdiv : rev (m + 1) i / 2 = rev m i := by rw [rev_succ_low]; omega
    rw [rev_succ m (rev (m + 1) i), hmod, hdiv, ih, Nat.mod_pow_succ]
    ring

theorem rev_rev_of_lt {m i : Nat} (hi : i < 2 ^ m) : rev m (rev m i) = i := by
  rw [rev_rev_eq_mod, Nat.mod_eq_of_lt hi]

/-- Zero bits above the low `k` of `i` become zero bits below the reversed ones. -/
theorem rev_add_of_lt {k i : Nat} (hi : i < 2 ^ k) (d : Nat) : rev (k + d) i = rev k i * 2 ^ d := by
  induction d with
  | zero => simp
  | succ d ih =>
    have hhigh : i / 2 ^ (k + d) = 0 :=
      Nat.div_eq_of_lt (hi.trans_le (Nat.pow_le_pow_right two_pos (Nat.le_add_right k d)))
    rw [← Nat.add_assoc, rev_succ_low, ih, hhigh, Nat.pow_succ]
    ring

theorem rev_eq_sum_bits (m i : Nat) : rev m i = ∑ b ∈ Finset.range m, i / 2 ^ b % 2 * 2 ^ (m - 1 - b) := by
  induction m generalizing i with
  | zero => rfl
  | succ m ih =>
    have hterm : ∀ b, i / 2 / 2 ^ b % 2 * 2 ^ (m - 1 - b) = i / 2 ^ (b + 1) % 2 * 2 ^ (m - (b + 1)) := fun b => by
      rw [Nat.div_div_eq_div_mul, ← Nat.pow_succ', Nat.sub_sub, Nat.add_comm 1 b]
    rw [rev_succ, ih, Finset.sum_congr rfl fun b _ => hterm b, Finset.sum_range_succ', Nat.add_comm]
    simp

theorem rev_eq_rev_mul_two_pow {m k i : Nat} (hk : k ≤ m) (hi : i < 2 ^ k) : rev m i = rev k i * 2 ^ (m - k) := by
  obtain ⟨d, rfl⟩ := Nat.exists_eq_add_of_le hk
  rw [rev_add_of_lt hi, Nat.add_sub_cancel_left]

/-- Settles O51: `rev` is the sum over bits by induction on the width; the involution and the wide reversal of a small
index come from peeling the high bit of the index. -/
theorem bitReversalFacts : Obligations.BitReversalFacts := by
  refine ⟨fun m i _ => rev_eq_sum_bits m i, rev_zero_width 0,
    fun m i hi => ⟨rev_lt_two_pow m i, rev_rev_of_lt hi⟩, ?_, fun m k i hk hi => rev_eq_rev_mul_two_pow hk hi⟩
  intro m i hm _
  obtain ⟨w, rfl⟩ := Nat.exists_eq_add_of_le' hm
  exact ⟨rev_two_mul w i, rev_two_mul_add_one w i⟩

end Sys2Proof.Machine
end

section
/-! The host port (R60, R61) by the state of the block, and its reads (R62) and `DWrite` (R63). -/

namespace Sys2Proof.Machine

/-! ### Operations the port can express -/

@[simp] theorem portFault_dRead_eq_none {c : Cfg} {i : Nat} : portFault c (.dRead i) = none ↔ i < c.nmax := by
  simp [portFault]

@[simp] theorem portFault_tRead_eq_none {c : Cfg} {i : Nat} : portFault c (.tRead i) = none ↔ i < c.nmax / 2 := by
  simp [portFault]

@[simp] theorem portFault_dWrite_eq_none {c : Cfg} {i v : Nat} :
    portFault c (.dWrite i v) = none ↔ i < c.nmax ∧ v < 2 ^ c.w := by
  by_cases hi : i < c.nmax <;> simp [portFault, hi]

/-! ### Which arm of the port answers -/

section
variable {s : State} {op : HostOp}

theorem hostOp_of_idle (hf : portFault s.cfg op = none) (hm : s.status.mode = .idle) (posted : Bool) :
    hostOp posted op s = opIdle posted op s := by
  simp only [hostOp, hf, hm]

theorem hostOp_of_busy (hf : portFault s.cfg op = none) (hm : s.status.mode = .busy) (posted : Bool) :
    hostOp posted op s = opBusy posted op s := by
  simp only [hostOp, hf, hm]

theorem hostOp_of_fault (hf : portFault s.cfg op = none) (hm : s.status.mode = .fault) (posted : Bool) :
    hostOp posted op s = opFault op s := by
  simp only [hostOp, hf, hm]

/-- An operation with one meaning in `IDLE` and in `FAULT`, as each read has (R62), has it wherever the block is not
busy. -/
theorem hostOp_of_not_busy (hf : portFault s.cfg op = none) (hm : s.status.mode ≠ .busy) {posted : Bool}
    (hop : opIdle posted op s = opFault op s) : hostOp posted op s = opFault op s := by
  cases hmode : s.status.mode with
  | idle => rw [hostOp_of_idle hf hmode, hop]
  | busy => exact absurd hmode hm
  | fault => exact hostOp_of_fault hf hmode posted

end

/-! ### Reads -/

/-- The register map (spec/10_state.md section 3): only registers 1, 2, 3 and 5 hold anything. -/
theorem regValue_by_number (s : State) :
    regValue s 0#3 = 0#32 ∧ regValue s 1#3 = s.len ∧ regValue s 2#3 = s.status.word ∧
    regValue s 3#3 = s.twlen ∧ regValue s 4#3 = 0#32 ∧ regValue s 5#3 = BitVec.ofNat 32 s.cfg.mcs ∧
    regValue s 6#3 = 0#32 ∧ regValue s 7#3 = 0#32 :=
  ⟨rfl, rfl, rfl, rfl, rfl, rfl, rfl, rfl⟩

theorem wordAt_of_read_none {m : Memory} {i : Nat} (h : m.read i = none) (sp : Space) :
    wordAt sp m i = .error (.wordWithoutValue sp i) := by
  rw [wordAt, h]

section
variable {s : State} {i v : Nat}

theorem dRead_of_read_some (h : s.dmem.read i = some v) : dRead i s = .next (answer (.dmem i v) s) := by
  rw [dRead, wordAt_eq_ok.mpr h]

theorem dRead_of_read_none (h : s.dmem.read i = none) : dRead i s = .refused (.wordWithoutValue .dmem i) := by
  rw [dRead, wordAt_of_read_none h]

theorem tRead_of_read_some (h : s.tmem.read i = some v) : tRead i s = .next (answer (.tmem i v) s) := by
  rw [tRead, wordAt_eq_ok.mpr h]

theorem tRead_of_read_none (h : s.tmem.read i = none) : tRead i s = .refused (.wordWithoutValue .tmem i) := by
  rw [tRead, wordAt_of_read_none h]

variable (hm : s.status.mode ≠ .busy) (posted : Bool)
include hm

theorem hostOp_regRead_of_not_busy (r : RegNum) : hostOp posted (.regRead r) s = .next (regRead r s) :=
  hostOp_of_not_busy (op := .regRead r) rfl hm rfl

theorem hostOp_dRead_of_not_busy (hi : i < s.cfg.nmax) : hostOp posted (.dRead i) s = dRead i s :=
  hostOp_of_not_busy (portFault_dRead_eq_none.mpr hi) hm rfl

theorem hostOp_tRead_of_not_busy (hi : i < s.cfg.nmax / 2) : hostOp posted (.tRead i) s = tRead i s :=
  hostOp_of_not_busy (portFault_tRead_eq_none.mpr hi) hm rfl

end

/-- Settles O10: outside `BUSY` each read has one meaning, which answers the register or the word, or refuses a word
without a value. -/
theorem readsReturnAndChangeNothing : Obligations.ReadsReturnAndChangeNothing := by
  intro s posted hm
  refine ⟨hostOp_regRead_of_not_busy hm posted, regValue_by_number s, ?_, ?_, ?_, ?_⟩
  · intro i v hi hread
    exact (hostOp_dRead_of_not_busy hm posted hi).trans (dRead_of_read_some hread)
  · intro i v hi hread
    exact (hostOp_tRead_of_not_busy hm posted hi).trans (tRead_of_read_some hread)
  · intro i hi hread
    exact (hostOp_dRead_of_not_busy hm posted hi).trans (dRead_of_read_none hread)
  · intro i hi hread
    exact (hostOp_tRead_of_not_busy hm posted hi).trans (tRead_of_read_none hread)

/-! ### `DWrite` -/

theorem dWrite_of_canonical {s : State} {v : Nat} (hv : v < s.cfg.p) (i : Nat) :
    dWrite i v s = { s with dmem := s.dmem.write i v } := if_pos hv

theorem dWrite_of_not_canonical {s : State} {v : Nat} (hv : s.cfg.p ≤ v) (i : Nat) :
    dWrite i v s = faultEntry .nonCanon s := if_neg hv.not_gt

/-- Settles O11: the port admits the operation, the state of the block picks the arm, and in `IDLE` the comparison with
`P` picks the store or the fault entry. -/
theorem dataWriteChecksCanonical : Obligations.DataWriteChecksCanonical := by
  intro s posted i v hi hv
  have hf : portFault s.cfg (.dWrite i v) = none := portFault_dWrite_eq_none.mpr ⟨hi, hv⟩
  refine ⟨?_, ?_, ?_, ?_⟩
  · intro hm hcanon
    refine ⟨s.dmem.write i v, ?_, read_write_same s.dmem i v, fun k hk => read_write_other s.dmem v hk⟩
    rw [hostOp_of_idle hf hm, opIdle, dWrite_of_canonical hcanon]
  · intro hm hnoncanon
    rw [hostOp_of_idle hf hm, opIdle, dWrite_of_not_canonical hnoncanon, faultEntry]
  · exact fun hm => hostOp_of_fault hf hm posted
  · exact fun hm => hostOp_of_busy hf hm posted

end Sys2Proof.Machine
end

section
/-! Decoding of register writes (R91, R92, R94, R95) and what the writes that start no command do outside `BUSY`: an
illegal command word, a control word, a write to a register that takes no instruction. -/

namespace Sys2Proof.Machine

/-! ### Command words -/

/-- R95: `OP` is outside the three opcodes, or a reserved bit of format C is set. -/
def IllegalWord (w : Word32) : Prop := fieldOp w = 0#4 ∨ 4 ≤ (fieldOp w).toNat ∨ fieldRsvC w ≠ 0#28

theorem opcode_cases (op : BitVec 4) : (op = 0#4 ∨ 4 ≤ op.toNat) ∨ op = 1#4 ∨ op = 2#4 ∨ op = 3#4 := by
  revert op; decide

theorem decodeC_of_illegal {w : Word32} (h : IllegalWord w) : decodeC w = .error (.illegalCommand w) := by
  obtain hop | hop | hrsv := h
  · simp [decodeC, hop]
  · have hne : ∀ k : BitVec 4, k.toNat < 4 → fieldOp w ≠ k := by
      rintro k hk rfl
      omega
    simp [decodeC, hne 1#4 (by decide), hne 2#4 (by decide), hne 3#4 (by decide)]
  · exact if_pos hrsv

theorem decodeC_of_not_illegal {w : Word32} (h : ¬ IllegalWord w) :
    decodeC w = .ok .buildTw ∨ decodeC w = .ok .ntt ∨ decodeC w = .ok .bitrev := by
  obtain ⟨hzero, hlarge, hrsv⟩ : fieldOp w ≠ 0#4 ∧ ¬ 4 ≤ (fieldOp w).toNat ∧ fieldRsvC w = 0#28 := by
    simpa [IllegalWord] using h
  obtain hbad | hop | hop | hop := opcode_cases (fieldOp w)
  · exact absurd hbad (not_or.mpr ⟨hzero, hlarge⟩)
  · exact .inl (by simp [decodeC, hrsv, hop])
  · exact .inr (.inl (by simp [decodeC, hrsv, hop]))
  · exact .inr (.inr (by simp [decodeC, hrsv, hop]))

theorem illegalWord_iff_decodeC (w : Word32) : IllegalWord w ↔ decodeC w = .error (.illegalCommand w) := by
  refine ⟨decodeC_of_illegal, fun hd => ?_⟩
  by_contra h
  obtain hok | hok | hok := decodeC_of_not_illegal h <;> simp [hd] at hok

theorem decodeC_total (w : Word32) :
    decodeC w = .error (.illegalCommand w) ∨ decodeC w = .ok .buildTw ∨ decodeC w = .ok .ntt ∨
      decodeC w = .ok .bitrev := by
  by_cases h : IllegalWord w
  · exact .inl (decodeC_of_illegal h)
  · exact .inr (decodeC_of_not_illegal h)

/-! ### Which decoder a register number picks -/

@[simp] theorem decode_regCmd (w : Word32) : decode regCmd w = decodeC w := rfl

@[simp] theorem decode_regCtrl (w : Word32) : decode regCtrl w = decodeK w := rfl

theorem decode_of_other_register {r : RegNum} (hcmd : r ≠ regCmd) (hctrl : r ≠ regCtrl) (w : Word32) :
    decode r w = .error (.notAnInstructionRegister r) := by
  rw [decode, if_neg hcmd, if_neg hctrl]

/-! ### The writes that start no command -/

theorem hostOp_illegal_command_of_idle {s : State} {w : Word32} (hm : s.status.mode = .idle)
    (hd : decodeC w = .error (.illegalCommand w)) (posted : Bool) :
    hostOp posted (.regWrite regCmd w) s = .next (faultEntry .illegalCmd s) := by
  rw [hostOp_of_idle rfl hm, opIdle, regWriteIdle, decode_regCmd, hd]

section
variable {s : State} (hm : s.status.mode ≠ .busy)
include hm

theorem execSrst_of_not_busy (rsv : BitVec 31) : execSrst rsv s = .next (softReset s) := by
  unfold execSrst
  cases hmode : s.status.mode with
  | idle => rfl
  | busy => exact absurd hmode hm
  | fault => rfl

/-- Outside `BUSY` bit 0 alone decides what a control word does (R92, R28): the soft reset, or nothing. -/
theorem hostOp_regCtrl_of_not_busy (posted : Bool) (w : Word32) :
    hostOp posted (.regWrite regCtrl w) s = .next (if fieldSrst w = 1#1 then softReset s else s) := by
  by_cases hbit : fieldSrst w = 1#1
  · have hd : decode regCtrl w = .ok (.srst (fieldRsvK w)) := if_pos hbit
    have hidle : opIdle posted (.regWrite regCtrl w) s = execSrst (fieldRsvK w) s := by
      rw [opIdle, regWriteIdle, hd]
      cases posted <;> rfl
    have hfault : opFault (.regWrite regCtrl w) s = execSrst (fieldRsvK w) s := by
      rw [opFault, regWriteFault, hd]
      rfl
    rw [hostOp_of_not_busy rfl hm (hidle.trans hfault.symm), hfault, execSrst_of_not_busy hm, if_pos hbit]
  · have hd : decode regCtrl w = .error (.controlNoOperation w) := if_neg hbit
    have hidle : opIdle posted (.regWrite regCtrl w) s = .next s := by
      rw [opIdle, regWriteIdle, hd]
    have hfault : opFault (.regWrite regCtrl w) s = .next s := by
      rw [opFault, regWriteFault, hd]
    rw [hostOp_of_not_busy rfl hm (hidle.trans hfault.symm), hfault, if_neg hbit]

/-- A register other than `CMD`, `LEN` and `CTRL` ignores what is written to it (R206). -/
theorem hostOp_ignored_register_of_not_busy {r : RegNum} (hcmd : r ≠ regCmd) (hlen : r ≠ regLen)
    (hctrl : r ≠ regCtrl) (posted : Bool) (v : Word32) : hostOp posted (.regWrite r v) s = .next s := by
  have hd := decode_of_other_register hcmd hctrl v
  have hidle : opIdle posted (.regWrite r v) s = .next s := by
    rw [opIdle, regWriteIdle, hd]
    exact congrArg Host.Outcome.next (if_neg hlen)
  have hfault : opFault (.regWrite r v) s = .next s := by
    rw [opFault, regWriteFault, hd]
  rw [hostOp_of_not_busy rfl hm (hidle.trans hfault.symm), hfault]

end

/-- Settles O2: the decoder by the cases of `OP` and the reserved bits; the writes by what each of them does outside
`BUSY`. -/
theorem illegalWordsFaultAndDecoderIsTotal : Obligations.IllegalWordsFaultAndDecoderIsTotal := by
  refine ⟨fun w => ⟨illegalWord_iff_decodeC w, decodeC_total w⟩, ?_, ?_, ?_⟩
  · exact fun s w posted hm hd => hostOp_illegal_command_of_idle hm hd posted
  · intro s w w' posted hm hbit
    rw [hostOp_regCtrl_of_not_busy hm, hostOp_regCtrl_of_not_busy hm, hbit]
  · rintro s r v posted (rfl | rfl) <;>
    exact ⟨rfl, fun hm => hostOp_ignored_register_of_not_busy hm (by decide) (by decide) (by decide) posted v⟩

end Sys2Proof.Machine
end

section
/-! The field kernel (R121 to R123) on canonical operands: each operation by comparison with `P`, and the corner cases
that follow from it. -/

namespace Sys2Proof.Machine

section
variable {c : Cfg} {a b : Nat}

/-! ### `FADD` -/

theorem fadd_of_lt (h : a + b < c.p) : fadd c a b = a + b := Nat.mod_eq_of_lt h

/-- One subtraction of `P` reduces the sum of two canonical operands. -/
theorem fadd_of_le (ha : a < c.p) (hb : b < c.p) (h : c.p ≤ a + b) : fadd c a b = a + b - c.p := by
  have hlt : a + b - c.p < c.p := by omega
  rw [fadd, Nat.mod_eq_sub_mod h, Nat.mod_eq_of_lt hlt]

theorem fadd_eq_ite (ha : a < c.p) (hb : b < c.p) :
    fadd c a b = if c.p ≤ a + b then a + b - c.p else a + b := by
  split
  case isTrue h => exact fadd_of_le ha hb h
  case isFalse h => exact fadd_of_lt (not_le.mp h)

theorem fadd_zero_right (ha : a < c.p) : fadd c a 0 = a := fadd_of_lt ha

theorem fadd_neg_right (ha : a < c.p) (hne : a ≠ 0) : fadd c a (c.p - a) = 0 := by
  rw [fadd_of_le ha (by omega) (by omega)]
  omega

theorem fadd_pred_pred (hp : 2 ≤ c.p) : fadd c (c.p - 1) (c.p - 1) = c.p - 2 := by
  rw [fadd_of_le (by omega) (by omega) (by omega)]
  omega

/-! ### `FSUB` -/

theorem intCast_fsub (hp : 0 < c.p) (a b : Nat) : ((fsub c a b : Nat) : Int) = ((a : Int) - b) % c.p :=
  Int.toNat_of_nonneg (Int.emod_nonneg _ (by omega))

theorem fsub_of_le (ha : a < c.p) (h : b ≤ a) : fsub c a b = a - b := by
  have hmod : ((a : Int) - b) % c.p = (a : Int) - b := Int.emod_eq_of_lt (by omega) (by omega)
  have hcast := intCast_fsub (Nat.zero_lt_of_lt ha) a b
  omega

/-- A borrow adds `P` once. -/
theorem fsub_of_lt (hb : b < c.p) (h : a < b) : fsub c a b = a + c.p - b := by
  have hmod : ((a : Int) - b) % c.p = (a : Int) - b + c.p := by
    rw [← Int.add_emod_right, Int.emod_eq_of_lt (by omega) (by omega)]
  have hcast := intCast_fsub (Nat.zero_lt_of_lt hb) a b
  omega

theorem fsub_eq_ite (ha : a < c.p) (hb : b < c.p) :
    fsub c a b = if b ≤ a then a - b else a + c.p - b := by
  split
  case isTrue h => exact fsub_of_le ha h
  case isFalse h => exact fsub_of_lt hb (not_le.mp h)

theorem fsub_self (ha : a < c.p) : fsub c a a = 0 := by
  rw [fsub_of_le ha le_rfl, Nat.sub_self]

theorem fsub_zero_left (hb : b < c.p) (hne : b ≠ 0) : fsub c 0 b = c.p - b := by
  rw [fsub_of_lt hb (Nat.pos_of_ne_zero hne), Nat.zero_add]

/-! ### `FMUL` -/

/-- Canonical words stand for different residues modulo `P`: a law of `ZMod P` is a law of the words. -/
theorem eq_of_natCast_eq (ha : a < c.p) (hb : b < c.p) (h : (a : ZMod c.p) = b) : a = b := by
  rwa [ZMod.natCast_eq_natCast_iff', Nat.mod_eq_of_lt ha, Nat.mod_eq_of_lt hb] at h

@[simp] theorem fmul_zero_right (c : Cfg) (a : Nat) : fmul c a 0 = 0 := by
  rw [fmul, Nat.mul_zero, Nat.zero_mod]

theorem fmul_one_right (ha : a < c.p) : fmul c a 1 = a := by
  rw [fmul, Nat.mul_one, Nat.mod_eq_of_lt ha]

theorem natCast_pred (hp : 0 < c.p) : ((c.p - 1 : Nat) : ZMod c.p) = -1 := by
  rw [Nat.cast_pred hp, ZMod.natCast_self, zero_sub]

/-- `P - 1` stands for `-1`. -/
theorem fmul_pred_left (hp : 0 < c.p) (a : Nat) : fmul c (c.p - 1) a = fsub c 0 a := by
  refine eq_of_natCast_eq (fmul_lt hp _ _) (fsub_lt hp _ _) ?_
  rw [cast_fmul, cast_fsub hp, natCast_pred hp, Nat.cast_zero, neg_one_mul, zero_sub]

theorem fmul_pred_pred (hp : 2 ≤ c.p) : fmul c (c.p - 1) (c.p - 1) = 1 := by
  rw [fmul_pred_left (by omega), fsub_zero_left (by omega) (by omega)]
  omega

/-- No zero divisors: a prime that divides a product divides a factor, and of the words below it only zero. -/
theorem fmul_eq_zero_iff (hc : c.p.Prime) (ha : a < c.p) (hb : b < c.p) : fmul c a b = 0 ↔ a = 0 ∨ b = 0 := by
  have hdvd : ∀ x, x < c.p → (c.p ∣ x ↔ x = 0) := fun x hx =>
    ⟨fun h => Nat.eq_zero_of_dvd_of_lt h hx, fun h => h ▸ dvd_zero c.p⟩
  rw [fmul, ← Nat.dvd_iff_mod_eq_zero, hc.dvd_mul, hdvd a ha, hdvd b hb]

end

/-- Settles O43: the comparison with `P` decides the sum, and every corner case is on one side of it. -/
theorem faddResult : Obligations.FaddResult := by
  intro c a b hc ha hb
  have hp := hc.three_le
  have hwidth : 2 * c.p - 2 < 2 ^ (c.w + 1) := by
    have hhigh := hc.w_high
    rw [Nat.pow_succ]
    omega
  exact ⟨rfl, fadd_eq_ite ha hb, fadd_lt (by omega) a b, fadd_zero_right ha, fadd_neg_right ha,
    fadd_pred_pred (by omega), by omega, hwidth, by decide⟩

/-- Settles O44: the comparison of the operands decides whether `P` is added, and every corner case is on one side of
it. -/
theorem fsubResult : Obligations.FsubResult := by
  intro c a b hc ha hb
  have hp := hc.three_le
  exact ⟨intCast_fsub (by omega) a b, fsub_eq_ite ha hb, fsub_lt (by omega) a b, fsub_self ha, fsub_zero_left hb,
    fsub_self (by omega), fsub_zero_left (by omega) one_ne_zero, by decide⟩

/-- Settles O45: `P - 1` stands for `-1`, and `P` is prime. -/
theorem fmulResult : Obligations.FmulResult := by
  intro c a b hc ha hb
  have hp := hc.three_le
  have hwidth : a * b < 2 ^ (2 * c.w) := calc
    a * b < 2 ^ c.w * 2 ^ c.w := Nat.mul_lt_mul'' (ha.trans_le hc.w_high) (hb.trans_le hc.w_high)
    _ = 2 ^ (2 * c.w) := by rw [Nat.two_mul, Nat.pow_add]
  exact ⟨rfl, hwidth, fmul_lt (by omega) a b, fmul_zero_right c a, fmul_one_right ha, fmul_pred_pred (by omega),
    fmul_pred_left (by omega) a, fmul_eq_zero_iff hc.prime ha hb, by decide⟩

end Sys2Proof.Machine
end

section
/-! The power-series generator (R127): `ACC` holds `G^i` when index `i` is reached. -/

namespace Sys2Proof.Machine

theorem fexp_zero {c : Cfg} (hp : 1 < c.p) (a : Nat) : fexp c a 0 = 1 := Nat.mod_eq_of_lt hp

theorem fexp_succ (c : Cfg) (a e : Nat) : fexp c a (e + 1) = fmul c (fexp c a e) a := by
  rw [fexp, fmul, fexp, Nat.pow_succ, Nat.mod_mul_mod]

theorem fexp_one_base {c : Cfg} (hp : 1 < c.p) (e : Nat) : fexp c 1 e = 1 := by
  rw [fexp, Nat.one_pow, Nat.mod_eq_of_lt hp]

theorem pserStep_fexp (c : Cfg) (g i : Nat) (t : Memory) :
    pserStep c g i (fexp c g i) t = (fexp c g (i + 1), t.write i (fexp c g i)) := by
  rw [pserStep, fexp_succ]

/-- Entered at index `i` with `ACC = G^i`, the loop writes the powers to its `k` indices and nothing else. -/
theorem read_pserLoop (c : Cfg) (g k i : Nat) (t : Memory) (j : Nat) :
    (pserLoop c g k i (fexp c g i) t).read j = if i ≤ j ∧ j < i + k then some (fexp c g j) else t.read j := by
  induction k generalizing i t with
  | zero => rw [pserLoop, if_neg (by omega)]
  | succ k ih =>
    rw [pserLoop, pserStep_fexp, ih, read_write]
    obtain rfl | hne := eq_or_ne j i
    · rw [if_neg (by omega), if_pos rfl, if_pos (by omega)]
    · have hrange : i + 1 ≤ j ∧ j < i + 1 + k ↔ i ≤ j ∧ j < i + (k + 1) := by omega
      rw [if_neg hne]
      simp only [hrange]

section
variable {c : Cfg} (hp : 1 < c.p)
include hp

theorem read_pser (g k : Nat) (t : Memory) (j : Nat) :
    (pser c g k t).read j = if j < k then some (fexp c g j) else t.read j := by
  have hloop := read_pserLoop c g k 0 t j
  rw [fexp_zero hp] at hloop
  simpa [pser] using hloop

theorem read_pser_of_lt {k j : Nat} (hj : j < k) (g : Nat) (t : Memory) :
    (pser c g k t).read j = some (fexp c g j) := by
  rw [read_pser hp, if_pos hj]

theorem pser_sameFrom (g k : Nat) (t : Memory) : Memory.SameFrom k t (pser c g k t) := by
  intro j hj
  rw [read_pser hp, if_neg (by omega)]

end

/-- Settles O50: by induction on the number of iterations, with `ACC` the power of the index reached. -/
theorem powerSeriesResult : Obligations.PowerSeriesResult := by
  intro c g k t hc _
  have hp : 1 < c.p := hc.prime.one_lt
  refine ⟨fun i hi => read_pser_of_lt hp hi g t, pser_sameFrom hp g k t, rfl, ?_, ?_⟩
  · rw [read_pser_of_lt hp one_pos, fexp_zero hp]
  · rintro rfl i hi
    rw [read_pser_of_lt hp hi, fexp_one_base hp]

end Sys2Proof.Machine
end

section
/-! The bit-reversal unit (spec/41_bitrev.md): `SWAP` (R141), the permutation loop (R142) with what each index holds
midway, and `BITREV` from issue to retire, once and twice in a row (R143). -/

namespace Sys2Proof.Machine

/-! ### `SWAP` -/

theorem swap_of_reads {m : Memory} {i j a b : Nat} (ha : m.read i = some a) (hb : m.read j = some b) (sp : Space) :
    swap sp m i j = .ok (a, (m.write i b).write j a) :=
  swap_eq_ok.mpr ⟨b, ha, hb, rfl⟩

theorem read_write_write (m : Memory) (i j a b k : Nat) :
    ((m.write i b).write j a).read k = if k = j then some a else if k = i then some b else m.read k := by
  rw [read_write, read_write]

/-! ### One iteration of the permutation loop -/

theorem permuteStep_of_lt {b i : Nat} (h : i < rev b i) (sp : Space) (tmp : Nat) (m : Memory) :
    permuteStep sp b i tmp m = swap sp m i (rev b i) := if_pos h

theorem permuteStep_of_le {b i : Nat} (h : rev b i ≤ i) (sp : Space) (tmp : Nat) (m : Memory) :
    permuteStep sp b i tmp m = .ok (tmp, m) := if_neg h.not_gt

/-- Settles O48: the writes of `SWAP` read back, and a fixed point fails the test `i < rev_b(i)`. -/
theorem swapExchangesTwoWords : Obligations.SwapExchangesTwoWords := by
  refine ⟨fun sp mem i j a b hne ha hb => ⟨_, swap_of_reads ha hb sp, ?_, ?_, ?_⟩,
    fun sp mem b i tmp hfix => permuteStep_of_le hfix.le sp tmp mem⟩
  · rw [read_write_write, if_neg hne, if_pos rfl]
  · rw [read_write_write, if_pos rfl]
  · intro k hki hkj
    rw [read_write_write, if_neg hkj, if_neg hki]

/-! ### Where the word of each index comes from midway through the loop -/

@[simp] theorem midExponent_zero (b k : Nat) : midExponent b 0 k = k := by simp [midExponent]

theorem midExponent_of_lt {b i k : Nat} (h : k < i ∨ rev b k < i) : midExponent b i k = rev b k := if_pos h

theorem midExponent_of_le {b i k : Nat} (hk : i ≤ k) (hrev : i ≤ rev b k) : midExponent b i k = k :=
  if_neg (by omega)

theorem midExponent_two_pow {b k : Nat} (hk : k < 2 ^ b) : midExponent b (2 ^ b) k = rev b k :=
  midExponent_of_lt (.inl hk)

theorem rev_eq_iff {b i k : Nat} (hi : i < 2 ^ b) (hk : k < 2 ^ b) : rev b k = i ↔ k = rev b i :=
  ⟨fun h => h ▸ (rev_rev_of_lt hk).symm, fun h => h ▸ rev_rev_of_lt hi⟩

section
variable {b i k : Nat} (hi : i < 2 ^ b) (hk : k < 2 ^ b)
include hi hk

/-- Doing index `i` settles `i` and its partner, and no other index. -/
theorem midExponent_succ :
    midExponent b (i + 1) k = if k = rev b i then i else if k = i then rev b i else midExponent b i k := by
  split_ifs with hkrev hki
  · have hrev : rev b k = i := (rev_eq_iff hi hk).mpr hkrev
    rw [midExponent_of_lt (.inr (by omega)), hrev]
  · rw [midExponent_of_lt (.inl (by omega)), hki]
  · have hrev : rev b k ≠ i := mt (rev_eq_iff hi hk).mp hkrev
    have hdone : k < i + 1 ∨ rev b k < i + 1 ↔ k < i ∨ rev b k < i := by omega
    simp only [midExponent, hdone]

/-- An index whose pair has been exchanged, or that is a fixed point, is settled before it is reached. -/
theorem midExponent_succ_of_rev_le (hle : rev b i ≤ i) : midExponent b (i + 1) k = midExponent b i k := by
  obtain ⟨hpair, hself⟩ : midExponent b i (rev b i) = i ∧ midExponent b i i = rev b i := by
    obtain hlt | hfix := hle.lt_or_eq
    · exact ⟨(midExponent_of_lt (.inl hlt)).trans (rev_rev_of_lt hi), midExponent_of_lt (.inr hlt)⟩
    · rw [hfix, midExponent_of_le le_rfl hfix.ge]
      exact ⟨rfl, rfl⟩
  rw [midExponent_succ hi hk]
  split_ifs with hkrev hki
  · rw [hkrev, hpair]
  · rw [hki, hself]
  · rfl

end

/-! ### The loop -/

theorem Memory.SameFrom.trans {n : Nat} {m₁ m₂ m₃ : Memory} (h : Memory.SameFrom n m₁ m₂)
    (h' : Memory.SameFrom n m₂ m₃) : Memory.SameFrom n m₁ m₃ :=
  fun k hk => (h' k hk).trans (h k hk)

/-- `m` holds `x` with the bit reversal on `b` bits done for the indices below `i`. -/
def Midway (b i : Nat) (x : Nat → Nat) (m : Memory) : Prop :=
  ∀ k, k < 2 ^ b → m.read k = some (x (midExponent b i k))

theorem midway_zero {b : Nat} {x : Nat → Nat} {m : Memory} : Midway b 0 x m ↔ m.Holds (2 ^ b) x := by
  simp [Midway, Memory.Holds]

theorem Midway.holds_rev {b : Nat} {x : Nat → Nat} {m : Memory} (h : Midway b (2 ^ b) x m) :
    m.Holds (2 ^ b) (fun k => x (rev b k)) := by
  intro k hk
  simpa only [midExponent_two_pow hk] using h k hk

section
variable {b : Nat} {x : Nat → Nat} (sp : Space)

/-- One iteration completes, whatever `TMP` holds before it, and reverses one more index. -/
theorem permuteStep_of_midway {i : Nat} {m : Memory} (hi : i < 2 ^ b) (h : Midway b i x m) (tmp : Nat) :
    ∃ tmp' m', permuteStep sp b i tmp m = .ok (tmp', m') ∧ Midway b (i + 1) x m' ∧
      Memory.SameFrom (2 ^ b) m m' := by
  obtain hle | hlt := le_or_gt (rev b i) i
  · refine ⟨tmp, m, permuteStep_of_le hle sp tmp m, fun k hk => ?_, fun _ _ => rfl⟩
    rw [h k hk, midExponent_succ_of_rev_le hi hk hle]
  · have hrev := rev_lt_two_pow b i
    have hself : m.read i = some (x i) := by
      rw [h i hi, midExponent_of_le le_rfl hlt.le]
    have hpair : m.read (rev b i) = some (x (rev b i)) := by
      rw [h _ hrev, midExponent_of_le hlt.le (rev_rev_of_lt hi).ge]
    have hstep := (permuteStep_of_lt hlt sp tmp m).trans (swap_of_reads hself hpair sp)
    refine ⟨_, _, hstep, fun k hk => ?_, fun k hk => ?_⟩
    · rw [read_write_write, midExponent_succ hi hk, h k hk]
      split_ifs <;> rfl
    · rw [read_write_write, if_neg (by omega), if_neg (by omega)]

/-- Entered at index `i` with the indices below it done, the loop completes the reversal and touches nothing else. -/
theorem permuteLoop_of_midway {k i : Nat} (hki : i + k = 2 ^ b) {m : Memory} (h : Midway b i x m) :
    ∃ m', permuteLoop sp b k i m = .ok m' ∧ m'.Holds (2 ^ b) (fun j => x (rev b j)) ∧
      Memory.SameFrom (2 ^ b) m m' := by
  induction k generalizing i m with
  | zero =>
    obtain rfl : i = 2 ^ b := hki
    exact ⟨m, rfl, h.holds_rev, fun _ _ => rfl⟩
  | succ k ih =>
    obtain ⟨tmp', m₁, hstep, hmid, hframe⟩ := permuteStep_of_midway sp (by omega) h 0
    obtain ⟨m', hloop, hholds, hframe'⟩ := ih (by omega) hmid
    refine ⟨m', ?_, hholds, hframe.trans hframe'⟩
    rw [permuteLoop, hstep]
    exact hloop

theorem permuteLoop_of_holds {m : Memory} (h : m.Holds (2 ^ b) x) :
    ∃ m', permuteLoop sp b (2 ^ b) 0 m = .ok m' ∧ m'.Holds (2 ^ b) (fun j => x (rev b j)) ∧
      Memory.SameFrom (2 ^ b) m m' :=
  permuteLoop_of_midway sp (Nat.zero_add _) (midway_zero.mpr h)

end

/-! ### `BITREV` -/

@[simp] theorem isPow2_two_pow (m : Nat) : isPow2 (2 ^ m) = true := by
  have hne : 2 ^ m ≠ 0 := (Nat.two_pow_pos m).ne'
  have hand : 2 ^ m &&& (2 ^ m - 1) = 0 := (Nat.and_sub_one_eq_zero_iff_isPowerOfTwo hne).mpr ⟨m, rfl⟩
  simp [isPow2, hand]

@[simp] theorem logLength_two_pow (m : Nat) : logLength (2 ^ m) = m := Nat.log2_two_pow

section
variable {s : State} {m : Nat} (hready : Ready s m)
include hready

/-- `BITREV` asks only for a power of two within the memory (R142, R223). -/
theorem checkLength_bitrev_of_ready : checkLength s.cfg .bitrev s.len s.twlen = none := by
  have hcap : 2 ^ m ≤ s.cfg.nmax := Nat.pow_le_pow_right two_pos hready.capacity
  simp [checkLength, hready.len, hcap.not_gt]

theorem latch_bitrev_of_holds {x : Nat → Nat} (h : s.dmem.Holds (2 ^ m) x) :
    latch .bitrev s = .ok (startRun .bitrev 0 s) := by
  have hmiss : missingWord .bitrev s = none := by
    rw [missingWord, hready.len, firstMissing_of_holds h]
  rw [latch, hmiss, startGenerator]

/-- The loop is the whole run of `BITREV`: what it leaves in `DMEM` is all that changes besides the flags. -/
theorem bitrevBody_of_ready {d : Memory} (hloop : permuteLoop .dmem m (2 ^ m) 0 s.dmem = .ok d) :
    bitrevBody (startRun .bitrev 0 s) (beginRun (startRun .bitrev 0 s) s) = .ok (doneWithData s d) := by
  rw [bitrevBody, startRun_nl, beginRun_dmem, hready.len, logLength_two_pow, hloop]
  rfl

/-- `BITREV` completes on any sequence and leaves it bit-reversed (R142). -/
theorem exec_bitrev_of_ready {x : Nat → Nat} (h : s.dmem.Holds (2 ^ m) x) :
    ∃ d, exec .bitrev s = .next (doneWithData s d) ∧ d.Holds (2 ^ m) (fun k => x (rev m k)) ∧
      Memory.SameFrom (2 ^ m) s.dmem d := by
  obtain ⟨d, hloop, hholds, hframe⟩ := permuteLoop_of_holds .dmem h
  exact ⟨d, command_runs hready.idle (checkLength_bitrev_of_ready hready) (latch_bitrev_of_holds hready h)
    (bitrevBody_of_ready hready hloop), hholds, hframe⟩

/-- A retired command leaves the block ready for the next one of the same length. -/
theorem ready_doneWithData (d : Memory) : Ready (doneWithData s d) m := ⟨rfl, hready.len, hready.capacity⟩

end

/-- Settles O20: each command composes the sequence with `rev_m`, which is its own inverse. -/
theorem bitrevTwiceRestores : Obligations.BitrevTwiceRestores := by
  intro s m x hready hx
  obtain ⟨d, hfirst, hd, hframe⟩ := exec_bitrev_of_ready hready hx
  obtain ⟨e, hsecond, he, hframe'⟩ := exec_bitrev_of_ready (ready_doneWithData hready d) hd
  refine ⟨_, _, hfirst, hsecond, fun i => ?_⟩
  change e.read i = s.dmem.read i
  obtain hi | hi := lt_or_ge i (2 ^ m)
  · have hback : e.read i = some (x (rev m (rev m i))) := he i hi
    rw [hback, rev_rev_of_lt hi, hx i hi]
  · exact hframe.trans hframe' i hi

end Sys2Proof.Machine
end

section
/-! The configured roots (R6) in `ZMod P`: order, powers of a primitive root, and the orders 2 and 4. -/

namespace Sys2Proof.Machine

/-- R6 read in `ZMod P`: a canonical word whose residue is a primitive root of unity. -/
theorem primitiveRoot_iff {p : Nat} (hp : 1 < p) (g k : Nat) :
    Cfg.PrimitiveRoot p g k ↔ g < p ∧ IsPrimitiveRoot (g : ZMod p) (2 ^ k) := by
  have hone : ∀ e, g ^ e % p = 1 ↔ (g : ZMod p) ^ e = 1 := fun e => by
    rw [← Nat.cast_pow, ← Nat.cast_one (R := ZMod p), ZMod.natCast_eq_natCast_iff', Nat.mod_eq_of_lt hp]
  rw [IsPrimitiveRoot.iff_orderOf, orderOf_eq_iff (Nat.two_pow_pos k)]
  simp only [Cfg.PrimitiveRoot, ne_eq, hone]

theorem two_pow_div_two {m : Nat} (hm : 1 ≤ m) : 2 ^ m / 2 = 2 ^ (m - 1) := Nat.pow_div hm two_pos

theorem two_pow_div_four {m : Nat} (hm : 2 ≤ m) : 2 ^ m / 4 = 2 ^ (m - 2) := Nat.pow_div hm two_pos

section
variable {c : Cfg} (hc : c.Valid)
include hc

/-- The power `n/z` of a primitive `n`-th root is a primitive `z`-th root (R158). -/
theorem primitiveRoot_pow {g m q : Nat} (hg : Cfg.PrimitiveRoot c.p g m) (hq : q ≤ m) :
    Cfg.PrimitiveRoot c.p (fexp c g (2 ^ (m - q))) q := by
  have hp : 1 < c.p := hc.prime.one_lt
  obtain ⟨_, hroot⟩ := (primitiveRoot_iff hp g m).mp hg
  have hprod : 2 ^ m = 2 ^ (m - q) * 2 ^ q := by rw [← Nat.pow_add, Nat.sub_add_cancel hq]
  refine (primitiveRoot_iff hp _ q).mpr ⟨Nat.mod_lt _ hc.prime.pos, ?_⟩
  rw [fexp, ZMod.natCast_mod, Nat.cast_pow]
  exact hroot.pow (Nat.two_pow_pos m) hprod

/-- The only square root of one besides one itself. -/
theorem natCast_of_primitiveRoot_one {g : Nat} (hg : Cfg.PrimitiveRoot c.p g 1) : (g : ZMod c.p) = -1 := by
  have := Fact.mk hc.prime
  obtain ⟨_, hroot⟩ := (primitiveRoot_iff hc.prime.one_lt g 1).mp hg
  exact hroot.eq_neg_one_of_two_right

theorem natCast_mul_self_of_primitiveRoot_two {g : Nat} (hg : Cfg.PrimitiveRoot c.p g 2) :
    (g * g : ZMod c.p) = -1 := by
  have hsq := natCast_of_primitiveRoot_one hc (primitiveRoot_pow hc hg one_le_two)
  simpa [fexp, sq] using hsq

/-- A factor of order 4 negates the square of a product (R159). -/
theorem fmul_self_of_fourth_root {w : Nat} (hw : Cfg.PrimitiveRoot c.p w 2) (x : Nat) :
    fmul c (fmul c x w) (fmul c x w) = fsub c 0 (fmul c x x) := by
  have hp := hc.prime.pos
  have hfourth := natCast_mul_self_of_primitiveRoot_two hc hw
  refine eq_of_natCast_eq (fmul_lt hp _ _) (fsub_lt hp _ _) ?_
  simp only [cast_fsub hp, cast_fmul, Nat.cast_zero]
  linear_combination (x * x : ZMod c.p) * hfourth

theorem fmul_self_of_neg (a : Nat) : fmul c (fsub c 0 a) (fsub c 0 a) = fmul c a a := by
  have hp := hc.prime.pos
  refine eq_of_natCast_eq (fmul_lt hp _ _) (fmul_lt hp _ _) ?_
  simp only [cast_fmul, cast_fsub hp, Nat.cast_zero]
  ring

theorem configuredRoot_of_le {k : Nat} (hk : k ≤ c.twoAdicity) : configuredRoot c k = .ok (c.rootAt k) := by
  have hindex : k < c.root.length := by rw [hc.root_length]; omega
  obtain ⟨hcanon, _⟩ := hc.root_primitive k hk
  rw [configuredRoot, froot, if_neg hk.not_gt]
  exact if_pos ⟨hindex, hcanon⟩

end

theorem fexp_add (c : Cfg) (a d e : Nat) : fexp c a (d + e) = fmul c (fexp c a d) (fexp c a e) := by
  rw [fexp, Nat.pow_add, Nat.mul_mod]
  rfl

theorem fexp_mul (c : Cfg) (a d e : Nat) : fexp c a (d * e) = fexp c (fexp c a d) e := by
  rw [fexp, Nat.pow_mul, Nat.pow_mod]
  rfl

end Sys2Proof.Machine
end

section
/-! The twiddle table (spec/42_twiddle.md): what a table for one size holds at the indices the rules name (R157), what
its first entries are to a smaller size (R158), its pairs (R159), and `BUILD_TW` from issue to retire (R156). -/

namespace Sys2Proof.Machine

/-! ### Entries of a table -/

theorem tableEntry_eq_fexp (c : Cfg) (m i : Nat) : tableEntry c m i = fexp c (c.rootAt m) (rev (m - 1) i) := rfl

section
variable {c : Cfg} {m : Nat} {t : Memory} (ht : TableFor c m t)
include ht

/-- Read in bit-reversed order the table is the power series (R157). -/
theorem TableFor.read_rev {i : Nat} (hi : i < 2 ^ (m - 1)) :
    t.read (rev (m - 1) i) = some (fexp c (c.rootAt m) i) := by
  rw [ht _ (rev_lt_two_pow _ _), tableEntry_eq_fexp, rev_rev_of_lt hi]

theorem TableFor.read_zero (hp : 1 < c.p) : t.read 0 = some 1 := by
  have hzero : rev (m - 1) 0 = 0 := by rw [rev_eq_rev_mul_two_pow (Nat.zero_le _) one_pos]; simp
  rw [ht 0 (Nat.two_pow_pos _), tableEntry_eq_fexp, hzero, fexp_zero hp]

/-- From size 4 on, the second entry is the root to the power `n/4` (R157). -/
theorem TableFor.read_one (hm : 2 ≤ m) : t.read 1 = some (fexp c (c.rootAt m) (2 ^ (m - 2))) := by
  have hlt : 1 < 2 ^ (m - 1) := Nat.one_lt_two_pow (by omega)
  have hone : rev (m - 1) 1 = 2 ^ (m - 2) := by
    rw [rev_eq_rev_mul_two_pow (k := 1) (by omega) one_lt_two, Nat.sub_sub]
    exact Nat.one_mul _
  rw [ht 1 hlt, tableEntry_eq_fexp, hone]

/-- The first `z/2` entries, `z = 2^q`, are the bit-reversed powers of `g^(n/z)` (R158). -/
theorem TableFor.holds_smaller_size {q : Nat} (hq : 1 ≤ q) (hqm : q ≤ m) :
    t.Holds (2 ^ (q - 1)) (fun j => fexp c (fexp c (c.rootAt m) (2 ^ (m - q))) (rev (q - 1) j)) := by
  intro j hj
  have hlt : j < 2 ^ (m - 1) := hj.trans_le (Nat.pow_le_pow_right two_pos (by omega))
  have hwidth : m - 1 - (q - 1) = m - q := by omega
  rw [ht j hlt, tableEntry_eq_fexp, rev_eq_rev_mul_two_pow (k := q - 1) (by omega) hj, hwidth, Nat.mul_comm, fexp_mul]

/-- The even index of a pair holds the power that `rev` leaves without its top bit, the odd one `g^(n/4)` times it
(R159). -/
theorem TableFor.read_pair (hm : 2 ≤ m) {k : Nat} (hk : k < 2 ^ (m - 2)) :
    ∃ x, t.read (2 * k) = some x ∧ t.read (2 * k + 1) = some (fmul c x (fexp c (c.rootAt m) (2 ^ (m - 2)))) := by
  obtain ⟨b, rfl⟩ := Nat.exists_eq_add_of_le' hm
  have hwidth : b + 2 - 1 = b + 1 := rfl
  have hlt : 2 * k + 1 < 2 ^ (b + 1) := by
    rw [Nat.pow_succ]
    rw [Nat.add_sub_cancel] at hk
    omega
  refine ⟨fexp c (c.rootAt (b + 2)) (rev b k), ?_, ?_⟩
  · rw [ht _ (Nat.lt_of_succ_lt hlt), tableEntry_eq_fexp, hwidth, rev_two_mul]
  · rw [ht _ hlt, tableEntry_eq_fexp, hwidth, rev_two_mul_add_one, fexp_add, Nat.add_sub_cancel]

end

/-- A primitive root is known from the bit-reversed powers in a table: for size 2 it is `-1`, and for a larger size the
table holds its first power. -/
theorem primitiveRoot_eq_of_holds {c : Cfg} (hc : c.Valid) {q g w : Nat} (hq : 1 ≤ q) {t : Memory}
    (hg : Cfg.PrimitiveRoot c.p g q) (hw : Cfg.PrimitiveRoot c.p w q)
    (htg : t.Holds (2 ^ (q - 1)) (fun j => fexp c g (rev (q - 1) j)))
    (htw : t.Holds (2 ^ (q - 1)) (fun j => fexp c w (rev (q - 1) j))) : g = w := by
  have hgp : g < c.p := hg.1
  have hwp : w < c.p := hw.1
  obtain rfl | hlarge := hq.eq_or_lt
  · have hcast := (natCast_of_primitiveRoot_one hc hg).trans (natCast_of_primitiveRoot_one hc hw).symm
    exact eq_of_natCast_eq hgp hwp hcast
  · have hlt : 1 < 2 ^ (q - 1) := Nat.one_lt_two_pow (by omega)
    have hsame := (htg _ (rev_lt_two_pow (q - 1) 1)).symm.trans (htw _ (rev_lt_two_pow (q - 1) 1))
    simpa [rev_rev_of_lt hlt, fexp, Nat.mod_eq_of_lt hgp, Nat.mod_eq_of_lt hwp] using hsame

/-- Settles O52: the first `z/2` entries hold the bit-reversed powers of a primitive `z`-th root, and those powers
determine the root. -/
theorem tablePrefixProperty : Obligations.TablePrefixProperty := by
  intro c m q t hc hq hqm hm ht
  rw [Nat.pow_div hqm two_pos, two_pow_div_two hq]
  have hw := primitiveRoot_pow hc (hc.root_primitive m hm) hqm
  have hpowers := ht.holds_smaller_size hq hqm
  refine ⟨hw, hpowers, fun htq => ?_, fun hroot => ?_⟩
  · exact primitiveRoot_eq_of_holds hc hq (hc.root_primitive q (hqm.trans hm)) hw htq hpowers
  · intro j hj
    rw [tableEntry_eq_fexp, hroot]
    exact hpowers j hj

/-- Settles O53: the members of a pair differ by a factor whose square is `-1`. -/
theorem tablePairProperty : Obligations.TablePairProperty := by
  intro c m k t hc hm hmS ht hk
  rw [two_pow_div_four hm] at hk ⊢
  have hw := primitiveRoot_pow hc (hc.root_primitive m hmS) hm
  obtain ⟨x, heven, hodd⟩ := ht.read_pair hm hk
  have hsq := fmul_self_of_fourth_root hc hw x
  have hfourth := fmul_self_of_neg hc (fmul c x x)
  exact ⟨x, _, heven, hodd, rfl, hsq, by rw [← hfourth, ← hsq]⟩

/-! ### `BUILD_TW` -/

section
variable {s : State} {m : Nat} (hready : Ready s m)
include hready

theorem latch_buildTw_of_ready (hc : s.cfg.Valid) (hmS : m ≤ s.cfg.twoAdicity) :
    latch .buildTw s = .ok (startRun .buildTw (s.cfg.rootAt m) s) := by
  rw [latch, missingWord, startGenerator, hready.len, logLength_two_pow, configuredRoot_of_le hc hmS]

variable (hm : 1 ≤ m)
include hm

/-- `BUILD_TW` asks for a size of at least 2 that has a configured root (R156, R223). -/
theorem checkLength_buildTw_of_ready (hmS : m ≤ s.cfg.twoAdicity) :
    checkLength s.cfg .buildTw s.len s.twlen = none := by
  have hcap : 2 ^ m ≤ s.cfg.nmax := Nat.pow_le_pow_right two_pos hready.capacity
  have hrange : 2 ≤ 2 ^ m := Nat.le_self_pow (by omega) 2
  simp [checkLength, hready.len, hcap.not_gt, hrange.not_gt, hmS.not_gt]

/-- The power series and its bit reversal are the whole run of `BUILD_TW`: what they leave in `TMEM` is all that changes
besides `TWLEN` and the flags. -/
theorem buildTwBody_of_ready {g : Nat} {t : Memory}
    (hloop : permuteLoop .tmem (m - 1) (2 ^ (m - 1)) 0 (pser s.cfg g (2 ^ (m - 1)) s.tmem) = .ok t) :
    buildTwBody (startRun .buildTw g s) (beginRun (startRun .buildTw g s) s) = .ok (doneWithTable s t) := by
  rw [buildTwBody, startRun_nl, startRun_gen, beginRun_tmem, beginRun_cfg, hready.len, logLength_two_pow, halfLength,
    two_pow_div_two hm, hloop]
  rfl

/-- `BUILD_TW` completes, builds the table for its size and leaves `TMEM` above it unchanged (R156, R157). -/
theorem exec_buildTw_of_ready (hc : s.cfg.Valid) (hmS : m ≤ s.cfg.twoAdicity) :
    ∃ t, exec .buildTw s = .next (doneWithTable s t) ∧ TableFor s.cfg m t ∧
      Memory.SameFrom (2 ^ (m - 1)) s.tmem t := by
  have hp : 1 < s.cfg.p := hc.prime.one_lt
  have hseries : (pser s.cfg (s.cfg.rootAt m) (2 ^ (m - 1)) s.tmem).Holds (2 ^ (m - 1))
      (fexp s.cfg (s.cfg.rootAt m)) := fun _ hj => read_pser_of_lt hp hj _ _
  obtain ⟨t, hloop, htable, hframe⟩ := permuteLoop_of_holds .tmem hseries
  exact ⟨t, command_runs hready.idle (checkLength_buildTw_of_ready hready hm hmS)
    (latch_buildTw_of_ready hready hc hmS) (buildTwBody_of_ready hready hm hloop), htable,
    (pser_sameFrom hp _ _ _).trans hframe⟩

end

/-- Settles O14: the run composes the power series with its bit reversal, and the entries follow from the table it
builds. -/
theorem buildTwBuildsTheTable : Obligations.BuildTwBuildsTheTable := by
  intro s m hc hready hm hmS
  obtain ⟨t, hexec, htable, hframe⟩ := exec_buildTw_of_ready hready hm hc hmS
  have htwlen : (doneWithTable s t).twlen.toNat = 2 ^ m / 2 := by
    rw [doneWithTable, BitVec.toNat_ushiftRight, hready.len, Nat.shiftRight_one]
  refine ⟨t, hexec, htwlen, ?_⟩
  rw [two_pow_div_two hm]
  refine ⟨htable, fun _ hi => htable.read_rev hi, htable.read_zero hc.prime.one_lt, fun hm2 => ?_, hframe⟩
  rw [two_pow_div_four hm2]
  exact ⟨htable.read_one hm2, primitiveRoot_pow hc (hc.root_primitive m hmS) hm2⟩

end Sys2Proof.Machine
end

section
/-! The butterflies (R171) on canonical words: what they read, what they write, and when the twiddle does not matter. -/

namespace Sys2Proof.Machine

section
variable {c : Cfg} {t d : Memory} {p q ti ev od twd : Nat} (hev : d.read p = some ev) (hod : d.read q = some od)
  (hevp : ev < c.p) (hodp : od < c.p)
include hev hod hevp hodp

theorem bfly_of_reads (htwd : t.read ti = some twd) (htwdp : twd < c.p) :
    bfly c t p q ti d = .ok (bflyStore c ⟨ev, od, twd, fmul c twd od⟩ p q d) := by
  have hload : bflyLoad c t p q ti d = .ok ⟨ev, od, twd, fmul c twd od⟩ :=
    bflyLoad_eq_ok.mpr ⟨⟨hev, hevp⟩, ⟨hod, hodp⟩, ⟨htwd, htwdp⟩, rfl⟩
  rw [bfly, hload]

theorem bfly0_of_reads : bfly0 c p q d = .ok (bflyStore c ⟨ev, od, Lane.clear.twd, od⟩ p q d) := by
  have hload : bfly0Load c Lane.clear p q d = .ok ⟨ev, od, Lane.clear.twd, od⟩ :=
    bfly0Load_eq_ok.mpr ⟨⟨hev, hevp⟩, ⟨hod, hodp⟩, rfl, rfl⟩
  rw [bfly0, hload]

end

/-- The two writes store the sum and the difference of `EV` and `PR` and leave every other word. -/
theorem bflyStore_results (c : Cfg) (lane : Lane) {p q : Nat} (hpq : p ≠ q) (d : Memory) :
    (bflyStore c lane p q d).read p = some (fadd c lane.ev lane.pr) ∧
    (bflyStore c lane p q d).read q = some (fsub c lane.ev lane.pr) ∧
    ∀ k, k ≠ p → k ≠ q → (bflyStore c lane p q d).read k = d.read k := by
  refine ⟨?_, ?_, fun k hkp hkq => ?_⟩
  · rw [read_bflyStore c lane hpq, if_pos rfl]
  · rw [read_bflyStore c lane hpq, if_neg hpq.symm, if_pos rfl]
  · rw [read_bflyStore c lane hpq, if_neg hkp, if_neg hkq]

/-- With twiddle 1 the product is the word read, so the two butterflies agree, also in what they refuse. -/
theorem bfly_eq_bfly0 {c : Cfg} {t : Memory} {ti : Nat} (hp : 1 < c.p) (hone : t.read ti = some 1) (p q : Nat)
    (d : Memory) : bfly c t p q ti d = bfly0 c p q d := by
  have htwd : operandAt c .tmem t ti = .ok 1 := operandAt_eq_ok.mpr ⟨hone, hp⟩
  rw [bfly, bflyLoad, bfly0, bfly0Load]
  cases operandAt c .dmem d p with
  | error r => rfl
  | ok ev =>
    cases hod : operandAt c .dmem d q with
    | error r => rfl
    | ok od =>
      obtain ⟨-, hodp⟩ := operandAt_eq_ok.mp hod
      have hpr : fmul c 1 od = od := by rw [fmul, one_mul, Nat.mod_eq_of_lt hodp]
      simp only [htwd, hpr, bflyStore]

/-- Settles O49: both outputs are computed from the lane registers loaded at the start, and each corner case is one of
the field operation that makes the word. -/
theorem butterflyResults : Obligations.ButterflyResults := by
  intro c t d p q ti ev od twd hc hpq hev hod htwd hevp hodp htwdp
  have hbfly := bfly_of_reads hev hod hevp hodp htwd htwdp
  obtain ⟨hsum, hdiff, hframe⟩ := bflyStore_results c ⟨ev, od, twd, fmul c twd od⟩ hpq.ne d
  refine ⟨⟨_, hbfly, hsum, hdiff, hframe⟩,
    ⟨_, bfly0_of_reads hev hod hevp hodp, bflyStore_results c _ hpq.ne d⟩, ?_, ?_, ?_⟩
  · rintro rfl
    exact bfly_eq_bfly0 hc.prime.one_lt htwd p q d
  · rintro rfl
    have hsub : fsub c ev 0 = ev := by rw [fsub_of_le hevp (Nat.zero_le ev), Nat.sub_zero]
    refine ⟨_, hbfly, hsum.trans ?_, hdiff.trans ?_⟩
    · rw [fmul_zero_right, fadd_zero_right hevp]
    · rw [fmul_zero_right, hsub]
  · intro hpr
    refine ⟨_, hbfly, hdiff.trans ?_⟩
    rw [← hpr, fsub_self hevp]

end Sys2Proof.Machine
end

section
/-! Values of polynomials at the powers of a root (R177): the value at `g^(rev_m(k))`, how it splits into the values of
the even and the odd coefficients, and the values of the sequences R179 names. -/

namespace Sys2Proof.Machine

theorem polyEval_lt {c : Cfg} (hp : 0 < c.p) (n : Nat) (a : Nat → Nat) (x : Nat) : polyEval c n a x < c.p :=
  Nat.mod_lt _ hp

theorem cast_polyEval (c : Cfg) (n : Nat) (a : Nat → Nat) (x : Nat) :
    (polyEval c n a x : ZMod c.p) = ∑ k ∈ Finset.range n, (a k : ZMod c.p) * (x : ZMod c.p) ^ k := by
  simp [polyEval]

/-- The even and the odd part of a polynomial. -/
theorem sum_range_two_mul_pow {R : Type} [CommRing R] (f : Nat → R) (x : R) (n : Nat) :
    ∑ k ∈ Finset.range (2 * n), f k * x ^ k =
      ∑ k ∈ Finset.range n, f (2 * k) * (x ^ 2) ^ k + x * ∑ k ∈ Finset.range n, f (2 * k + 1) * (x ^ 2) ^ k := by
  induction n with
  | zero => simp
  | succ n ih =>
    rw [Nat.mul_succ, Finset.sum_range_succ, Finset.sum_range_succ, ih, Finset.sum_range_succ,
      Finset.sum_range_succ (fun k => f (2 * k + 1) * (x ^ 2) ^ k)]
    ring

/-! ### The evaluation points -/

/-- `g^(rev_m(k))` in `ZMod P`, where `g = ROOT[m]`: the point whose value `NTT` leaves at index `k`. -/
def point (c : Cfg) (m k : Nat) : ZMod c.p := (c.rootAt m : ZMod c.p) ^ rev m k

@[simp] theorem rev_zero (m : Nat) : rev m 0 = 0 := by
  rw [rev_eq_rev_mul_two_pow (Nat.zero_le m) one_pos, rev_zero_width, Nat.zero_mul]

theorem point_zero (c : Cfg) (m : Nat) : point c m 0 = 1 := by
  rw [point, rev_zero, pow_zero]

/-- Entry `j` of the table is the point at index `2j`. -/
theorem point_two_mul (c : Cfg) (w j : Nat) : point c (w + 1) (2 * j) = (tableEntry c (w + 1) j : ZMod c.p) := by
  rw [point, rev_two_mul, tableEntry, ZMod.natCast_mod, Nat.cast_pow, Nat.add_sub_cancel]

/-- In the first half of the indices a point is the square of the table entry. -/
theorem point_of_lt {w j : Nat} (c : Cfg) (hj : j < 2 ^ w) :
    point c (w + 1) j = (tableEntry c (w + 1) j : ZMod c.p) ^ 2 := by
  have hrev : rev (w + 1) j = rev w j * 2 := by
    rw [rev_add_of_lt hj, pow_one]
  rw [← point_two_mul, point, point, rev_two_mul, hrev, pow_mul]

section
variable {c : Cfg} (hc : c.Valid)
include hc

/-- The points at the indices `2j` and `2j + 1` are negatives of each other. -/
theorem point_two_mul_add_one {w : Nat} (hw : w + 1 ≤ c.twoAdicity) (j : Nat) :
    point c (w + 1) (2 * j + 1) = -(tableEntry c (w + 1) j : ZMod c.p) := by
  have hhalf : (c.rootAt (w + 1) : ZMod c.p) ^ 2 ^ w = -1 := by
    have hroot := primitiveRoot_pow hc (hc.root_primitive (w + 1) hw) (Nat.le_add_left 1 w)
    simpa [fexp] using natCast_of_primitiveRoot_one hc hroot
  rw [← point_two_mul, point, point, rev_two_mul_add_one, rev_two_mul, pow_add, hhalf, mul_neg_one]

theorem point_pow_two_pow {m : Nat} (hm : m ≤ c.twoAdicity) (k : Nat) : point c m k ^ 2 ^ m = 1 := by
  obtain ⟨_, hroot⟩ := (primitiveRoot_iff hc.prime.one_lt _ m).mp (hc.root_primitive m hm)
  rw [point, pow_right_comm, hroot.pow_eq_one, one_pow]

/-- Only index 0 has the point one. -/
theorem point_ne_one {m k : Nat} (hm : m ≤ c.twoAdicity) (hk : k < 2 ^ m) (hne : k ≠ 0) : point c m k ≠ 1 := by
  obtain ⟨_, hroot⟩ := (primitiveRoot_iff hc.prime.one_lt _ m).mp (hc.root_primitive m hm)
  have hrev : rev m k ≠ 0 := by
    intro hzero
    have hback := rev_rev_of_lt hk
    rw [hzero, rev_zero] at hback
    exact hne hback.symm
  exact hroot.pow_ne_one_of_pos_of_lt hrev (rev_lt_two_pow m k)

end

/-! ### The value at a point -/

/-- The value at the point of index `k` of the polynomial with the `n` coefficients `a`. -/
def valueAt (c : Cfg) (m n : Nat) (a : Nat → Nat) (k : Nat) : Nat := polyEval c n a (c.rootAt m ^ rev m k)

theorem valueAt_lt {c : Cfg} (hp : 0 < c.p) (m n : Nat) (a : Nat → Nat) (k : Nat) : valueAt c m n a k < c.p :=
  polyEval_lt hp n a _

theorem cast_valueAt (c : Cfg) (m n : Nat) (a : Nat → Nat) (k : Nat) :
    (valueAt c m n a k : ZMod c.p) = ∑ i ∈ Finset.range n, (a i : ZMod c.p) * point c m k ^ i := by
  rw [valueAt, cast_polyEval, Nat.cast_pow, point]

theorem valueAt_one {c : Cfg} (m : Nat) {a : Nat → Nat} (ha : a 0 < c.p) (k : Nat) : valueAt c m 1 a k = a 0 := by
  simp [valueAt, polyEval, Nat.mod_eq_of_lt ha]

section
variable {c : Cfg} (hp : 0 < c.p) {w j : Nat} (hj : j < 2 ^ w) (n : Nat) (a : Nat → Nat)
include hp hj

/-- The value at an even index: the sum of a butterfly on the values of the even and the odd coefficients (R174). -/
theorem valueAt_two_mul : valueAt c (w + 1) (2 * n) a (2 * j) =
    fadd c (valueAt c (w + 1) n (fun k => a (2 * k)) j)
      (fmul c (tableEntry c (w + 1) j) (valueAt c (w + 1) n (fun k => a (2 * k + 1)) j)) := by
  refine eq_of_natCast_eq (valueAt_lt hp _ _ _ _) (fadd_lt hp _ _) ?_
  rw [cast_fadd, cast_fmul, cast_valueAt, cast_valueAt, cast_valueAt, sum_range_two_mul_pow, point_two_mul,
    point_of_lt c hj]

/-- The value at an odd index: the difference of the same butterfly. -/
theorem valueAt_two_mul_add_one (hc : c.Valid) (hw : w + 1 ≤ c.twoAdicity) :
    valueAt c (w + 1) (2 * n) a (2 * j + 1) =
      fsub c (valueAt c (w + 1) n (fun k => a (2 * k)) j)
        (fmul c (tableEntry c (w + 1) j) (valueAt c (w + 1) n (fun k => a (2 * k + 1)) j)) := by
  refine eq_of_natCast_eq (valueAt_lt hp _ _ _ _) (fsub_lt hp _ _) ?_
  rw [cast_fsub hp, cast_fmul, cast_valueAt, cast_valueAt, cast_valueAt, sum_range_two_mul_pow,
    point_two_mul_add_one hc hw, point_of_lt c hj, neg_sq, neg_mul, sub_eq_add_neg]

end

/-! ### The values of the sequences of R179 -/

section
variable {c : Cfg} (hp : 0 < c.p) (m n : Nat) (a : Nat → Nat) (k : Nat)
include hp

theorem valueAt_fadd (a' : Nat → Nat) : valueAt c m n (fun i => fadd c (a i) (a' i)) k =
    fadd c (valueAt c m n a k) (valueAt c m n a' k) := by
  refine eq_of_natCast_eq (valueAt_lt hp _ _ _ _) (fadd_lt hp _ _) ?_
  simp only [cast_fadd, cast_valueAt, add_mul, Finset.sum_add_distrib]

theorem valueAt_fmul (v : Nat) : valueAt c m n (fun i => fmul c v (a i)) k = fmul c v (valueAt c m n a k) := by
  refine eq_of_natCast_eq (valueAt_lt hp _ _ _ _) (fmul_lt hp _ _) ?_
  simp only [cast_fmul, cast_valueAt, mul_assoc, Finset.mul_sum]

theorem valueAt_lone {v : Nat} (hv : v < c.p) (hn : 0 < n) :
    valueAt c m n (fun i => if i = 0 then v else 0) k = v := by
  refine eq_of_natCast_eq (valueAt_lt hp _ _ _ _) hv ?_
  rw [cast_valueAt, Finset.sum_eq_single_of_mem 0 (Finset.mem_range.mpr hn)]
  · simp
  · intro i _ hi
    simp [hi]

end

theorem valueAt_zero_coefficients (c : Cfg) (m n k : Nat) : valueAt c m n (fun _ => 0) k = 0 := by
  simp [valueAt, polyEval]

/-- `D[0]` is the sum of the coefficients. -/
theorem valueAt_index_zero {c : Cfg} (hp : 0 < c.p) (m n : Nat) (a : Nat → Nat) :
    valueAt c m n a 0 = (∑ k ∈ Finset.range n, a k) % c.p := by
  refine eq_of_natCast_eq (valueAt_lt hp _ _ _ _) (Nat.mod_lt _ hp) ?_
  simp [cast_valueAt, point_zero]

section
variable {c : Cfg} (hc : c.Valid) {m : Nat} (hmS : m ≤ c.twoAdicity)
include hc hmS

/-- `D[1]` is the value at `-1`. -/
theorem valueAt_index_one (hm : 1 ≤ m) (n : Nat) (a : Nat → Nat) :
    valueAt c m n a 1 = polyEval c n a (c.p - 1) := by
  obtain ⟨w, rfl⟩ := Nat.exists_eq_add_of_le' hm
  have hp := hc.prime.pos
  have hpoint : point c (w + 1) 1 = -1 := by
    have h := point_two_mul_add_one hc hmS 0
    rwa [← point_two_mul, point_zero] at h
  refine eq_of_natCast_eq (valueAt_lt hp _ _ _ _) (polyEval_lt hp _ _ _) ?_
  rw [cast_valueAt, cast_polyEval, hpoint, natCast_pred hp]

/-- A constant sequence: at a point other than one the powers sum to zero, being roots of unity. -/
theorem valueAt_constant (v : Nat) {k : Nat} (hk : k < 2 ^ m) :
    valueAt c m (2 ^ m) (fun _ => v) k = if k = 0 then fmul c (2 ^ m % c.p) v else 0 := by
  have hp := hc.prime.pos
  split
  case isTrue h =>
    rw [h, valueAt_index_zero hp, Finset.sum_const, Finset.card_range, smul_eq_mul, fmul, Nat.mod_mul_mod]
  case isFalse h =>
    have := Fact.mk hc.prime
    have hgeom : (point c m k - 1) * ∑ i ∈ Finset.range (2 ^ m), point c m k ^ i = 0 := by
      rw [mul_geom_sum, point_pow_two_pow hc hmS, sub_self]
    have hsum := (mul_eq_zero.mp hgeom).resolve_left (sub_ne_zero.mpr (point_ne_one hc hmS hk h))
    refine eq_of_natCast_eq (valueAt_lt hp _ _ _ _) hp ?_
    rw [cast_valueAt, ← Finset.mul_sum, hsum, mul_zero, Nat.cast_zero]

end

end Sys2Proof.Machine
end

section
/-! The transform on a sub-problem (R173, R174): the elements of `(o, s)` and of its two children, the combine loop, and
`NTT_SUB` by induction on the depth. -/

namespace Sys2Proof.Machine

/-! ### The elements of a sub-problem -/

/-- Index `i` is one of the `n` elements of the sub-problem `(o, s)`. -/
def Element (o s n i : Nat) : Prop := ∃ k, k < n ∧ i = o + k * s

/-- The `n` elements of the sub-problem `(o, s)` hold `x 0, ..., x (n-1)`. -/
def Memory.HoldsElements (d : Memory) (o s n : Nat) (x : Nat → Nat) : Prop :=
  ∀ k, k < n → d.read (o + k * s) = some (x k)

/-- `d'` reads as `d` outside the elements of the sub-problem. -/
def Memory.SameOutside (o s n : Nat) (d d' : Memory) : Prop :=
  ∀ i, ¬ Element o s n i → d'.read i = d.read i

theorem holdsElements_zero_one {d : Memory} {n : Nat} {x : Nat → Nat} :
    d.HoldsElements 0 1 n x ↔ d.Holds n x := by
  simp [Memory.HoldsElements, Memory.Holds]

theorem Memory.SameOutside.sameFrom {n : Nat} {d d' : Memory} (h : Memory.SameOutside 0 1 n d d') :
    Memory.SameFrom n d d' := by
  rintro i hi
  refine h i ?_
  rintro ⟨k, hk, rfl⟩
  omega

theorem Memory.SameOutside.trans {o s n : Nat} {d₁ d₂ d₃ : Memory} (h : Memory.SameOutside o s n d₁ d₂)
    (h' : Memory.SameOutside o s n d₂ d₃) : Memory.SameOutside o s n d₁ d₃ :=
  fun i hi => (h' i hi).trans (h i hi)

theorem even_element (o s k : Nat) : o + k * (2 * s) = o + 2 * k * s := by ring

theorem odd_element (o s k : Nat) : o + s + k * (2 * s) = o + (2 * k + 1) * s := by ring

theorem element_inj {s : Nat} (hs : 0 < s) {o k k' : Nat} : o + k * s = o + k' * s ↔ k = k' := by
  rw [Nat.add_left_cancel_iff, Nat.mul_left_inj hs.ne']

/-- The even and the odd child together have the elements of the parent. -/
theorem holdsElements_two_mul {d : Memory} {o s n : Nat} {x : Nat → Nat} :
    d.HoldsElements o s (2 * n) x ↔
      d.HoldsElements o (2 * s) n (fun k => x (2 * k)) ∧
      d.HoldsElements (o + s) (2 * s) n (fun k => x (2 * k + 1)) := by
  refine ⟨fun h => ⟨fun k hk => ?_, fun k hk => ?_⟩, fun ⟨heven, hodd⟩ e he => ?_⟩
  · rw [even_element]
    exact h _ (by omega)
  · rw [odd_element]
    exact h _ (by omega)
  · obtain ⟨k, rfl | rfl⟩ := Nat.even_or_odd' e
    · rw [← even_element]
      exact heven k (by omega)
    · rw [← odd_element]
      exact hodd k (by omega)

section
variable {o s n i : Nat}

theorem Element.of_even_child (h : Element o (2 * s) n i) : Element o s (2 * n) i := by
  obtain ⟨k, hk, rfl⟩ := h
  exact ⟨2 * k, by omega, even_element o s k⟩

theorem Element.of_odd_child (h : Element (o + s) (2 * s) n i) : Element o s (2 * n) i := by
  obtain ⟨k, hk, rfl⟩ := h
  exact ⟨2 * k + 1, by omega, odd_element o s k⟩

/-- The children of a sub-problem share no element (R183). -/
theorem Element.not_odd_child (hs : 0 < s) (h : Element o (2 * s) n i) : ¬ Element (o + s) (2 * s) n i := by
  obtain ⟨k, -, rfl⟩ := h
  rintro ⟨k', -, heq⟩
  rw [even_element, odd_element, element_inj hs] at heq
  omega

variable {d d' : Memory} {x : Nat → Nat}

theorem Memory.SameOutside.of_even_child (h : Memory.SameOutside o (2 * s) n d d') :
    Memory.SameOutside o s (2 * n) d d' :=
  fun _ hi => h _ (mt Element.of_even_child hi)

theorem Memory.SameOutside.of_odd_child (h : Memory.SameOutside (o + s) (2 * s) n d d') :
    Memory.SameOutside o s (2 * n) d d' :=
  fun _ hi => h _ (mt Element.of_odd_child hi)

/-- The even child leaves the odd one's elements alone. -/
theorem Memory.HoldsElements.odd_after_even (hx : d.HoldsElements (o + s) (2 * s) n x) (hs : 0 < s)
    (h : Memory.SameOutside o (2 * s) n d d') : d'.HoldsElements (o + s) (2 * s) n x :=
  fun k hk => (h _ fun heven => heven.not_odd_child hs ⟨k, hk, rfl⟩).trans (hx k hk)

/-- The odd child leaves the even one's elements alone. -/
theorem Memory.HoldsElements.even_after_odd (hx : d.HoldsElements o (2 * s) n x) (hs : 0 < s)
    (h : Memory.SameOutside (o + s) (2 * s) n d d') : d'.HoldsElements o (2 * s) n x :=
  fun k hk => (h _ (Element.not_odd_child hs ⟨k, hk, rfl⟩)).trans (hx k hk)

end

/-! ### The combine loop -/

/-- What butterfly `e div 2` leaves in element `e`, when the elements held `x` and the table holds `b`. -/
def combined (c : Cfg) (b x : Nat → Nat) (e : Nat) : Nat :=
  if e % 2 = 0 then fadd c (x e) (fmul c (b (e / 2)) (x (e + 1)))
  else fsub c (x (e - 1)) (fmul c (b (e / 2)) (x e))

/-- The elements with the butterflies below `j` done. -/
def combinedBelow (c : Cfg) (b x : Nat → Nat) (j e : Nat) : Nat := if e < 2 * j then combined c b x e else x e

section
variable (c : Cfg) (b x : Nat → Nat) (j : Nat)

theorem combined_two_mul : combined c b x (2 * j) = fadd c (x (2 * j)) (fmul c (b j) (x (2 * j + 1))) := by
  have hmod : 2 * j % 2 = 0 := by omega
  have hdiv : 2 * j / 2 = j := by omega
  rw [combined, if_pos hmod, hdiv]

theorem combined_two_mul_add_one :
    combined c b x (2 * j + 1) = fsub c (x (2 * j)) (fmul c (b j) (x (2 * j + 1))) := by
  have hmod : ¬ (2 * j + 1) % 2 = 0 := by omega
  have hdiv : (2 * j + 1) / 2 = j := by omega
  rw [combined, if_neg hmod, hdiv, Nat.add_sub_cancel]

theorem combinedBelow_zero : combinedBelow c b x 0 = x := by
  funext e
  exact if_neg (Nat.not_lt_zero e)

variable {j}

theorem combinedBelow_of_lt {e : Nat} (h : e < 2 * j) : combinedBelow c b x j e = combined c b x e := if_pos h

theorem combinedBelow_of_le {e : Nat} (h : 2 * j ≤ e) : combinedBelow c b x j e = x e := if_neg h.not_gt

/-- Doing butterfly `j` settles the elements `2j` and `2j + 1`, and no other. -/
theorem combinedBelow_succ (e : Nat) : combinedBelow c b x (j + 1) e =
    if e = 2 * j then combined c b x (2 * j)
    else if e = 2 * j + 1 then combined c b x (2 * j + 1) else combinedBelow c b x j e := by
  split_ifs with heven hodd
  · rw [heven, combinedBelow_of_lt c b x (by omega)]
  · rw [hodd, combinedBelow_of_lt c b x (by omega)]
  · have hbelow : e < 2 * (j + 1) ↔ e < 2 * j := by omega
    simp only [combinedBelow, hbelow]

end

section
variable {c : Cfg} {t : Memory} {o s n : Nat} {b x : Nat → Nat} (hs : 0 < s) (ht : t.Holds n b)
  (hb : ∀ j, j < n → b j < c.p) (hx : ∀ e, e < 2 * n → x e < c.p)
include hs ht hb hx

/-- One butterfly of the loop completes and combines one more pair. -/
theorem bfly_of_combinedBelow {j : Nat} {d : Memory} (hj : j < n)
    (hd : d.HoldsElements o s (2 * n) (combinedBelow c b x j)) :
    ∃ d', bfly c t (o + 2 * j * s) (o + 2 * j * s + s) j d = .ok d' ∧
      d'.HoldsElements o s (2 * n) (combinedBelow c b x (j + 1)) ∧ Memory.SameOutside o s (2 * n) d d' := by
  have hodd : o + 2 * j * s + s = o + (2 * j + 1) * s := by ring
  have hev : d.read (o + 2 * j * s) = some (x (2 * j)) := by
    rw [hd _ (by omega), combinedBelow_of_le c b x le_rfl]
  have hod : d.read (o + (2 * j + 1) * s) = some (x (2 * j + 1)) := by
    rw [hd _ (by omega), combinedBelow_of_le c b x (by omega)]
  have hne : o + 2 * j * s ≠ o + (2 * j + 1) * s := by
    rw [Ne, element_inj hs]
    omega
  have hbfly := bfly_of_reads hev hod (hx _ (by omega)) (hx _ (by omega)) (ht j hj) (hb j hj)
  rw [hodd]
  refine ⟨_, hbfly, fun e he => ?_, fun i hi => ?_⟩
  · rw [read_bflyStore _ _ hne, combinedBelow_succ, hd e he, combined_two_mul, combined_two_mul_add_one]
    simp only [element_inj hs]
    split_ifs <;> rfl
  · obtain ⟨-, -, hframe⟩ := bflyStore_results c ⟨_, _, _, _⟩ hne d
    refine hframe i ?_ ?_ <;> rintro rfl
    · exact hi ⟨2 * j, by omega, rfl⟩
    · exact hi ⟨2 * j + 1, by omega, rfl⟩

/-- Entered with the butterflies below `j` done, the loop completes and does the rest. -/
theorem combineLoop_of_combinedBelow {k j : Nat} (hjk : j + k = n) {d : Memory}
    (hd : d.HoldsElements o s (2 * n) (combinedBelow c b x j)) :
    ∃ d', combineLoop c t o s k j d = .ok d' ∧ d'.HoldsElements o s (2 * n) (combined c b x) ∧
      Memory.SameOutside o s (2 * n) d d' := by
  induction k generalizing j d with
  | zero =>
    obtain rfl : j = n := hjk
    refine ⟨d, rfl, fun e he => ?_, fun _ _ => rfl⟩
    rw [hd e he, combinedBelow_of_lt c b x he]
  | succ k ih =>
    obtain ⟨d₁, hbfly, hd₁, hframe⟩ := bfly_of_combinedBelow hs ht hb hx (by omega) hd
    obtain ⟨d', hloop, hd', hframe'⟩ := ih (by omega) hd₁
    refine ⟨d', ?_, hd', hframe.trans hframe'⟩
    rw [combineLoop, hbfly]
    exact hloop

theorem combineLoop_of_holds {d : Memory} (hd : d.HoldsElements o s (2 * n) x) :
    ∃ d', combineLoop c t o s n 0 d = .ok d' ∧ d'.HoldsElements o s (2 * n) (combined c b x) ∧
      Memory.SameOutside o s (2 * n) d d' :=
  combineLoop_of_combinedBelow hs ht hb hx (Nat.zero_add n) (by rwa [combinedBelow_zero])

end

/-! ### `NTT_SUB` -/

theorem nttSub_zero (c : Cfg) (t : Memory) (nl o s : Nat) (d : Memory) : nttSub c t nl 0 o s d = .ok d := rfl

theorem combineLoop_one (c : Cfg) (t : Memory) (o s : Nat) (d : Memory) :
    combineLoop c t o s 1 0 d = bfly c t o (o + s) 0 d := by
  change combineLoop c t o s (0 + 1) 0 d = _
  rw [combineLoop, Nat.mul_zero, Nat.zero_mul, Nat.add_zero]
  cases bfly c t o (o + s) 0 d <;> rfl

/-- The base case of size 2 is the combine loop with twiddle 1, so one rule covers every size from 2 up: the two
children, then the combine loop (R173). -/
theorem nttSub_succ {c : Cfg} {t : Memory} {f o s : Nat} {d d₁ d₂ d' : Memory} (hp : 1 < c.p)
    (hone : t.read 0 = some 1) {nl : Nat} (hnl : nl / s = 2 ^ (f + 1))
    (heven : nttSub c t nl f o (2 * s) d = .ok d₁) (hodd : nttSub c t nl f (o + s) (2 * s) d₁ = .ok d₂)
    (hloop : combineLoop c t o s (2 ^ f) 0 d₂ = .ok d') : nttSub c t nl (f + 1) o s d = .ok d' := by
  rw [nttSub, hnl]
  cases f with
  | zero =>
    rw [nttSub_zero] at heven hodd
    cases heven
    cases hodd
    rw [pow_zero, combineLoop_one, bfly_eq_bfly0 hp hone] at hloop
    rw [if_neg (by decide), if_pos (by decide), hloop]
  | succ f =>
    have hlarge : 2 < 2 ^ (f + 2) := by
      have hpos := Nat.two_pow_pos f
      rw [Nat.pow_succ, Nat.pow_succ]
      omega
    have hhalf : 2 ^ (f + 2) / 2 = 2 ^ (f + 1) := two_pow_div_two (Nat.le_add_left 1 (f + 1))
    rw [if_neg (by omega), if_neg (by omega), heven]
    simp only [hodd, hhalf, hloop]

/-- What the two children leave in element `e` of their parent. -/
def childValue (c : Cfg) (m n : Nat) (a : Nat → Nat) (e : Nat) : Nat :=
  valueAt c m n (fun k => a (2 * k + e % 2)) (e / 2)

theorem childValue_lt {c : Cfg} (hp : 0 < c.p) (m n : Nat) (a : Nat → Nat) (e : Nat) : childValue c m n a e < c.p :=
  valueAt_lt hp m n _ _

section
variable (c : Cfg) (m n : Nat) (a : Nat → Nat) (k : Nat)

theorem childValue_two_mul : childValue c m n a (2 * k) = valueAt c m n (fun i => a (2 * i)) k := by
  have hmod : 2 * k % 2 = 0 := by omega
  have hdiv : 2 * k / 2 = k := by omega
  simp only [childValue, hmod, hdiv, Nat.add_zero]

theorem childValue_two_mul_add_one :
    childValue c m n a (2 * k + 1) = valueAt c m n (fun i => a (2 * i + 1)) k := by
  have hmod : (2 * k + 1) % 2 = 1 := by omega
  have hdiv : (2 * k + 1) / 2 = k := by omega
  simp only [childValue, hmod, hdiv]

end

/-- Combining the values of the children gives the values of the parent. -/
theorem combined_childValue {c : Cfg} (hc : c.Valid) {w : Nat} (hw : w + 1 ≤ c.twoAdicity) {n e : Nat}
    (hn : n ≤ 2 ^ w) (he : e < 2 * n) (a : Nat → Nat) :
    combined c (tableEntry c (w + 1)) (childValue c (w + 1) n a) e = valueAt c (w + 1) (2 * n) a e := by
  have hp := hc.prime.pos
  obtain ⟨j, rfl | rfl⟩ := Nat.even_or_odd' e
  · rw [combined_two_mul, childValue_two_mul, childValue_two_mul_add_one, valueAt_two_mul hp (by omega)]
  · rw [combined_two_mul_add_one, childValue_two_mul, childValue_two_mul_add_one,
      valueAt_two_mul_add_one hp (by omega) n a hc hw]

/-- `NTT_SUB(o, s)` leaves the values of its polynomial at the points of its own indices: the children's values by
induction, the parent's by the combine loop (R177). -/
theorem nttSub_of_table {c : Cfg} (hc : c.Valid) {w : Nat} (hw : w + 1 ≤ c.twoAdicity) {t : Memory}
    (ht : TableFor c (w + 1) t) {f o s nl : Nat} {d : Memory} {a : Nat → Nat} (hf : f ≤ w + 1) (hs : 0 < s)
    (hnl : nl = 2 ^ f * s) (hd : d.HoldsElements o s (2 ^ f) a) (ha : ∀ k, k < 2 ^ f → a k < c.p) :
    ∃ d', nttSub c t nl f o s d = .ok d' ∧ d'.HoldsElements o s (2 ^ f) (valueAt c (w + 1) (2 ^ f) a) ∧
      Memory.SameOutside o s (2 ^ f) d d' := by
  have hp := hc.prime.pos
  induction f generalizing o s d a with
  | zero =>
    refine ⟨d, rfl, fun k hk => ?_, fun _ _ => rfl⟩
    obtain rfl : k = 0 := by simpa using hk
    rw [hd 0 hk, pow_zero, valueAt_one _ (ha 0 hk)]
  | succ f ih =>
    have hdiv : nl / s = 2 ^ (f + 1) := by rw [hnl, Nat.mul_div_cancel _ hs]
    have hchild : nl = 2 ^ f * (2 * s) := by rw [hnl, Nat.pow_succ, Nat.mul_assoc]
    have hsize : 2 ^ f ≤ 2 ^ w := Nat.pow_le_pow_right two_pos (by omega)
    rw [Nat.pow_succ', holdsElements_two_mul] at hd
    rw [Nat.pow_succ'] at ha ⊢
    obtain ⟨hdeven, hdodd⟩ := hd
    obtain ⟨d₁, heven, hd₁, hframe₁⟩ := ih (by omega) (by omega) hchild hdeven fun k hk => ha _ (by omega)
    obtain ⟨d₂, hodd, hd₂, hframe₂⟩ := ih (by omega) (by omega) hchild (hdodd.odd_after_even hs hframe₁)
      fun k hk => ha _ (by omega)
    have hchildren : d₂.HoldsElements o s (2 * 2 ^ f) (childValue c (w + 1) (2 ^ f) a) := by
      simp only [holdsElements_two_mul, childValue_two_mul, childValue_two_mul_add_one]
      exact ⟨hd₁.even_after_odd hs hframe₂, hd₂⟩
    obtain ⟨d', hloop, hd', hframe'⟩ := combineLoop_of_holds hs (fun j hj => ht j (hj.trans_le hsize))
      (fun j _ => Nat.mod_lt _ hp) (fun e _ => childValue_lt hp _ _ _ e) hchildren
    refine ⟨d', nttSub_succ hc.prime.one_lt (ht.read_zero hc.prime.one_lt) hdiv heven hodd hloop, fun e he => ?_,
      (hframe₁.of_even_child.trans hframe₂.of_odd_child).trans hframe'⟩
    rw [hd' e he, combined_childValue hc hw hsize he]

end Sys2Proof.Machine
end

section
/-! `NTT` from issue to retire (R180): what it leaves (R177), followed by `BITREV` (R178), and the consequences that
R179 lists. -/

namespace Sys2Proof.Machine

section
variable {s : State} {m : Nat} (hready : NttReady s m)
include hready

theorem NttReady.one_le : 1 ≤ m := by
  have htwlen := hready.twlen
  obtain _ | w := m
  · rw [pow_zero] at htwlen
    omega
  · omega

/-- `NTT` asks besides for a table of its size (R180, R223). -/
theorem checkLength_ntt_of_ready : checkLength s.cfg .ntt s.len s.twlen = none := by
  have hcap : 2 ^ m ≤ s.cfg.nmax := Nat.pow_le_pow_right two_pos hready.ready.capacity
  simp [checkLength, hready.ready.len, hcap.not_gt, hready.twlen.symm]

theorem latch_ntt_of_holds {a : Nat → Nat} (h : s.dmem.Holds (2 ^ m) a) :
    latch .ntt s = .ok (startRun .ntt 0 s) := by
  have hmiss : missingWord .ntt s = none := by
    simp only [missingWord, hready.ready.len, firstMissing_of_holds h, halfLength, two_pow_div_two hready.one_le,
      firstMissing_of_holds hready.table]
  rw [latch, hmiss, startGenerator]

/-- `NTT_SUB(0, 1)` is the whole run of `NTT`: what it leaves in `DMEM` is all that changes besides the flags. -/
theorem nttBody_of_ready {d : Memory} (hsub : nttSub s.cfg s.tmem (2 ^ m) m 0 1 s.dmem = .ok d) :
    nttBody (startRun .ntt 0 s) (beginRun (startRun .ntt 0 s) s) = .ok (doneWithData s d) := by
  rw [nttBody, startRun_nl, beginRun_cfg, beginRun_tmem, beginRun_dmem, hready.ready.len, logLength_two_pow, hsub]
  rfl

variable (hc : s.cfg.Valid)
include hc

/-- `NTT` completes on canonical coefficients and leaves the values of their polynomial (R177). -/
theorem exec_ntt_of_ready {a : Nat → Nat} (h : s.dmem.Holds (2 ^ m) a) (ha : ∀ k, k < 2 ^ m → a k < s.cfg.p) :
    ∃ d, exec .ntt s = .next (doneWithData s d) ∧ d.Holds (2 ^ m) (valueAt s.cfg m (2 ^ m) a) ∧
      Memory.SameFrom (2 ^ m) s.dmem d := by
  obtain ⟨w, rfl⟩ := Nat.exists_eq_add_of_le' hready.one_le
  obtain ⟨d, hsub, hd, hframe⟩ := nttSub_of_table hc hready.adicity hready.table le_rfl one_pos
    (Nat.mul_one _).symm (holdsElements_zero_one.mpr h) ha
  exact ⟨d, command_runs hready.ready.idle (checkLength_ntt_of_ready hready) (latch_ntt_of_holds hready h)
    (nttBody_of_ready hready hsub), holdsElements_zero_one.mp hd, hframe.sameFrom⟩

end

/-- Settles O15: `NTT_SUB(0, 1)` leaves the values of the whole sequence. -/
theorem nttEvaluatesPolynomial : Obligations.NttEvaluatesPolynomial := by
  intro s m a hc hready h ha
  exact exec_ntt_of_ready hready hc h ha

/-- Settles O16: `BITREV` reads the values in the order of `rev_m`, which is its own inverse. -/
theorem nttThenBitrevNaturalOrder : Obligations.NttThenBitrevNaturalOrder := by
  intro s m a hc hready h ha
  obtain ⟨d, hntt, hd, -⟩ := exec_ntt_of_ready hready hc h ha
  obtain ⟨e, hbitrev, he, -⟩ := exec_bitrev_of_ready (ready_doneWithData hready.ready d) hd
  refine ⟨_, e, hntt, hbitrev, fun k hk => ?_⟩
  simpa only [valueAt, rev_rev_of_lt hk] using he k hk

/-! ### The consequences of R179 -/

section
variable {s : State} {m : Nat} {d : Memory} {a b : Nat → Nat}

/-- What `NTT` gives is determined on the sequence, and says nothing above it. -/
theorem NttGives.congr {b' : Nat → Nat} (h : NttGives s m d b) (hb : ∀ k, k < 2 ^ m → b k = b' k) :
    NttGives s m d b' := by
  obtain ⟨e, hexec, he, hframe⟩ := h
  exact ⟨e, hexec, fun k hk => by rw [he k hk, hb k hk], hframe⟩

theorem NttGives.unique {b' : Nat → Nat} (h : NttGives s m d b) (h' : NttGives s m d b') {k : Nat} (hk : k < 2 ^ m) :
    b k = b' k := by
  obtain ⟨e, hexec, he, -⟩ := h
  obtain ⟨e', hexec', he', -⟩ := h'
  have hsame : e = e' := congrArg State.dmem (Host.Outcome.next.inj (hexec.symm.trans hexec'))
  exact Option.some.inj ((he k hk).symm.trans (hsame ▸ he' k hk))

variable (hc : s.cfg.Valid) (hready : NttReady s m) (hd : d.Holds (2 ^ m) a) (ha : ∀ k, k < 2 ^ m → a k < s.cfg.p)
include hc hready hd ha

/-- R177 with `DMEM` replaced: readiness does not look at it. -/
theorem nttGives_valueAt : NttGives s m d (valueAt s.cfg m (2 ^ m) a) := by
  have hready' : NttReady { s with dmem := d } m :=
    { ready := ⟨hready.ready.idle, hready.ready.len, hready.ready.capacity⟩
      twlen := hready.twlen
      adicity := hready.adicity
      table := hready.table }
  exact exec_ntt_of_ready hready' hc hd ha

theorem NttGives.eq_valueAt (h : NttGives s m d b) {k : Nat} (hk : k < 2 ^ m) : b k = valueAt s.cfg m (2 ^ m) a k :=
  h.unique (nttGives_valueAt hc hready hd ha) hk

end

/-- Settles O17: every transform is the sequence of values at the points, and each clause is a fact about those
values. -/
theorem nttConsequences : Obligations.NttConsequences := by
  intro s m hc hready
  have hp := hc.prime.pos
  refine ⟨?_, ?_, ?_, ?_, ?_, ?_⟩
  · intro d d' d'' a a' b b' hd hd' hcanon hd'' hb hb'
    refine (nttGives_valueAt hc hready hd'' fun k _ => fadd_lt hp _ _).congr fun k hk => ?_
    rw [valueAt_fadd hp, hb.eq_valueAt hc hready hd (fun i hi => (hcanon i hi).1) hk,
      hb'.eq_valueAt hc hready hd' (fun i hi => (hcanon i hi).2) hk]
  · intro d d' a b v hd ha hv hd' hb
    refine (nttGives_valueAt hc hready hd' fun k _ => fmul_lt hp _ _).congr fun k hk => ?_
    rw [valueAt_fmul hp, hb.eq_valueAt hc hready hd ha hk]
  · intro d a b hd ha hb
    have hlt : 1 < 2 ^ m := Nat.one_lt_two_pow (Nat.one_le_iff_ne_zero.mp hready.one_le)
    rw [hb.eq_valueAt hc hready hd ha (Nat.two_pow_pos m), hb.eq_valueAt hc hready hd ha hlt]
    exact ⟨valueAt_index_zero hp m _ a, valueAt_index_one hc hready.adicity hready.one_le _ a⟩
  · intro d hd
    refine (nttGives_valueAt hc hready hd fun _ _ => hp).congr fun k _ => ?_
    exact valueAt_zero_coefficients s.cfg m _ k
  · intro d v hv hd
    have hcanon : ∀ k, k < 2 ^ m → (if k = 0 then v else 0) < s.cfg.p := fun k _ => by split <;> assumption
    refine (nttGives_valueAt hc hready hd hcanon).congr fun k _ => ?_
    exact valueAt_lone hp m _ k hv (Nat.two_pow_pos m)
  · intro d v hv hd
    refine (nttGives_valueAt hc hready hd fun _ _ => hv).congr fun k hk => ?_
    exact valueAt_constant hc hready.adicity v hk

end Sys2Proof.Machine
end

section
/-! The command check (R223): the word, the two conditions every command shares, then those of each command. -/

namespace Sys2Proof.Machine

/-! ### The command words -/

theorem fieldRsvC_append_fieldOp (w : Word32) : fieldRsvC w ++ fieldOp w = w :=
  (BitVec.extractLsb'_append_extractLsb'_eq_extractLsb' rfl).trans BitVec.extractLsb'_eq_self

/-- Format C has no field (R91): a command is decoded from one word only, its own. -/
theorem eq_encode_of_decodeC {w : Word32} {i : Instr} (h : decodeC w = .ok i) : w = encode i := by
  rw [← fieldRsvC_append_fieldOp w]
  unfold decodeC at h
  split_ifs at h with hrsv hop hop hop <;> cases h <;> rw [not_not.mp hrsv, hop] <;> rfl

theorem decodeC_of_not_opcode {w : Word32} (h1 : w ≠ 1#32) (h2 : w ≠ 2#32) (h3 : w ≠ 3#32) :
    decodeC w = .error (.illegalCommand w) := by
  obtain hd | hd | hd | hd := decodeC_total w
  · exact hd
  · exact absurd (eq_encode_of_decodeC hd) h1
  · exact absurd (eq_encode_of_decodeC hd) h2
  · exact absurd (eq_encode_of_decodeC hd) h3

theorem decodeC_of_opcode {w : Word32} (h : w = 1#32 ∨ w = 2#32 ∨ w = 3#32) : ∃ i, decodeC w = .ok i := by
  obtain rfl | rfl | rfl := h
  · exact ⟨.buildTw, rfl⟩
  · exact ⟨.ntt, rfl⟩
  · exact ⟨.bitrev, rfl⟩

/-! ### The conditions in their order -/

section
variable {c : Cfg} {v len twlen : Word32} {i : Instr}

theorem check_of_illegal {e : DecodeError} (h : decodeC v = .error e) : check c v len twlen = some .illegalCmd := by
  rw [check, h]

theorem check_of_decodeC (h : decodeC v = .ok i) : check c v len twlen = checkLength c i len twlen := by
  rw [check, h]

theorem isPow2_of_ne_two_pow {n : Nat} (h : ∀ m, n ≠ 2 ^ m) : isPow2 n = false := by
  by_cases hn : n = 0
  · simp [isPow2, hn]
  · have hand : n &&& (n - 1) ≠ 0 := fun hzero => by
      obtain ⟨m, hm⟩ := (Nat.and_sub_one_eq_zero_iff_isPowerOfTwo hn).mp hzero
      exact h m hm
    simp [isPow2, hand]

theorem checkLength_of_not_pow2 (h : ∀ m, len.toNat ≠ 2 ^ m) : checkLength c i len twlen = some .notPow2 := by
  simp [checkLength, isPow2_of_ne_two_pow h]

variable {m : Nat} (hlen : len.toNat = 2 ^ m)
include hlen

theorem checkLength_of_capacity (hcap : c.nmax < 2 ^ m) : checkLength c i len twlen = some .capacity := by
  simp [checkLength, hlen, hcap]

variable (hfit : 2 ^ m ≤ c.nmax)
include hfit

theorem checkLength_buildTw_of_fits :
    checkLength c .buildTw len twlen =
      if m = 0 then some .lenRange else if c.twoAdicity < m then some .root else none := by
  have hrange : 2 ^ m < 2 ↔ m = 0 :=
    (Nat.pow_lt_pow_iff_right (n := m) (m := 1) Nat.one_lt_two).trans Nat.lt_one_iff
  simp [checkLength, hlen, hfit.not_gt, hrange]

theorem checkLength_ntt_of_fits :
    checkLength c .ntt len twlen = if 2 ^ m ≠ 2 * twlen.toNat then some .twiddleLen else none := by
  simp [checkLength, hlen, hfit.not_gt]

theorem checkLength_bitrev_of_fits : checkLength c .bitrev len twlen = none := by
  simp [checkLength, hlen, hfit.not_gt]

end

/-- `2*TWLEN` is a 32-bit word (R223): `TWLEN` is at most half the depth of `DMEM`. -/
theorem two_mul_twlen_lt {c : Cfg} {twlen : Word32} (hlog : c.logNmax ≤ 31) (h : twlen.toNat ≤ c.nmax / 2) :
    2 * twlen.toNat < 2 ^ 32 := by
  have hnmax : c.nmax ≤ 2 ^ 31 := Nat.pow_le_pow_right two_pos hlog
  omega

/-- Settles O23: the word decides whether there is a command, the length its two shared conditions, and the command
the rest. -/
theorem commandCheckOrder : Obligations.CommandCheckOrder := by
  intro c v len twlen
  refine ⟨fun ⟨h1, h2, h3⟩ => check_of_illegal (decodeC_of_not_opcode h1 h2 h3), fun hv => ?_,
    fun hlog h => two_mul_twlen_lt hlog h⟩
  obtain ⟨i, hd⟩ := decodeC_of_opcode hv
  refine ⟨fun h => (check_of_decodeC hd).trans (checkLength_of_not_pow2 h), fun m hlen =>
    ⟨fun hcap => (check_of_decodeC hd).trans (checkLength_of_capacity hlen hcap), fun hfit => ⟨?_, ?_, ?_⟩⟩⟩
  · rintro rfl
    rw [check_of_decodeC (i := .buildTw) rfl, checkLength_buildTw_of_fits hlen hfit]
    refine ⟨fun hm => if_pos hm, fun hm hS => ?_, fun hm hS => ?_⟩
    · rw [if_neg (by omega), if_pos hS]
    · rw [if_neg (by omega), if_neg hS.not_gt]
  · rintro rfl
    rw [check_of_decodeC (i := .ntt) rfl, checkLength_ntt_of_fits hlen hfit]
    exact ⟨fun hne => if_pos hne, fun heq => if_neg (not_not.mpr heq)⟩
  · rintro rfl
    exact (check_of_decodeC (i := .bitrev) rfl).trans (checkLength_bitrev_of_fits hlen hfit)

end Sys2Proof.Machine
end

section
/-! Faults: what enters `FAULT` (R222, R230), and what happens in it (R231). -/

namespace Sys2Proof.Machine

/-! ### Fault entry -/

/-- Run either way, a command is its check and issue followed by a body. -/
theorem runInstr_eq_command {i : Instr} (hi : i = .buildTw ∨ i = .ntt ∨ i = .bitrev) (posted : Bool) :
    ∃ body, ∀ s, runInstr posted i s = command i body s := by
  cases posted with
  | true => exact ⟨fun _ s => .ok s, fun s => by obtain rfl | rfl | rfl := hi <;> rfl⟩
  | false =>
    obtain rfl | rfl | rfl := hi
    · exact ⟨buildTwBody, fun _ => rfl⟩
    · exact ⟨nttBody, fun _ => rfl⟩
    · exact ⟨bitrevBody, fun _ => rfl⟩

section
variable {s : State} {i : Instr} {code : Err} (hm : s.status.mode = .idle)
include hm

theorem runInstr_of_checkLength (hi : i = .buildTw ∨ i = .ntt ∨ i = .bitrev)
    (hc : checkLength s.cfg i s.len s.twlen = some code) (posted : Bool) :
    runInstr posted i s = .next (faultEntry code s) := by
  obtain ⟨body, hbody⟩ := runInstr_eq_command hi posted
  rw [hbody]
  exact command_faults hm hc

theorem hostOp_regCmd_of_decodeC {v : Word32} (hd : decodeC v = .ok i) (posted : Bool) :
    hostOp posted (.regWrite regCmd v) s = runInstr posted i s := by
  rw [hostOp_of_idle rfl hm, opIdle, regWriteIdle, decode_regCmd, hd]

/-- A command word whose check fails enters the fault, and does nothing else. -/
theorem hostOp_regCmd_of_check {v : Word32} (hc : check s.cfg v s.len s.twlen = some code) (posted : Bool) :
    hostOp posted (.regWrite regCmd v) s = .next (faultEntry code s) := by
  have faults : ∀ i, i = .buildTw ∨ i = .ntt ∨ i = .bitrev → decodeC v = .ok i →
      hostOp posted (.regWrite regCmd v) s = .next (faultEntry code s) := fun i hi hd =>
    (hostOp_regCmd_of_decodeC hm hd posted).trans
      (runInstr_of_checkLength hm hi ((check_of_decodeC hd).symm.trans hc) posted)
  obtain hd | hd | hd | hd := decodeC_total v
  · obtain rfl : code = .illegalCmd := Option.some.inj (hc.symm.trans (check_of_illegal hd))
    exact hostOp_illegal_command_of_idle hm hd posted
  · exact faults _ (.inl rfl) hd
  · exact faults _ (.inr (.inl rfl)) hd
  · exact faults _ (.inr (.inr rfl)) hd

end

/-- Settles O24: each of the three answers `faultEntry`, which is the update of `STATUS` alone. -/
theorem faultEntryIsPrecise : Obligations.FaultEntryIsPrecise := by
  refine ⟨?_, ?_, ?_⟩
  · exact fun s posted v code hm hc => hostOp_regCmd_of_check hm hc posted
  · exact fun s i code hm hc hi => runInstr_of_checkLength hm hi hc false
  · intro s posted i v hm hi hv hnoncanon
    have hf : portFault s.cfg (.dWrite i v) = none := portFault_dWrite_eq_none.mpr ⟨hi, hv⟩
    rw [hostOp_of_idle hf hm, opIdle, dWrite_of_not_canonical hnoncanon, faultEntry]

/-! ### What enters `FAULT` -/

theorem checkLength_ne_nonCanon (c : Cfg) (i : Instr) (len twlen : Word32) :
    checkLength c i len twlen ≠ some .nonCanon := by
  unfold checkLength
  cases i <;> split_ifs <;> simp

/-- Code 7 is no code of the command check (R221, R223). -/
theorem check_ne_nonCanon (c : Cfg) (v len twlen : Word32) : check c v len twlen ≠ some .nonCanon := by
  cases hd : decodeC v with
  | error e => simp [check_of_illegal hd]
  | ok i =>
    rw [check_of_decodeC hd]
    exact checkLength_ne_nonCanon c i len twlen

theorem noFault_retire (s : State) : (retire s).NoFault := by
  rw [State.NoFault, retire_status, retired_mode]
  decide

/-- The engine writes `STATUS` only to retire. -/
theorem MicroEffect.noFault {lane : Nat} {path : List Bool} {r : Run} {s t : State} (h : MicroEffect lane path r s t)
    (hs : s.NoFault) : t.NoFault := by
  cases h with
  | series | seriesEnd | table | data | task => exact hs
  | retireTable | retireData | retireTasks => exact noFault_retire s

/-- An event leaves the block without a fault unless it enters one by a failed check. -/
theorem Effect.noFault_or_faultEntry {e : Event} {s t : State} (h : Effect e s t) (hs : s.NoFault) :
    t.NoFault ∨ s.status.mode = .idle ∧
      ((∃ v code, e.Makes (.regWrite regCmd v) ∧ check s.cfg v s.len s.twlen = some code ∧ t = faultEntry code s) ∨
        ∃ i v, e.Makes (.dWrite i v) ∧ s.cfg.p ≤ v ∧ t = faultEntry .nonCanon s) := by
  cases h with
  | checkFailed v code hm he hc => exact .inr ⟨hm, .inl ⟨v, code, he, hc, rfl⟩⟩
  | nonCanonical i v hm he hv => exact .inr ⟨hm, .inr ⟨i, v, he, hv, rfl⟩⟩
  | ignored | held | answered | lenWritten | dataWritten => exact .inl hs
  | powerOn | soft | issued => exact .inl (by simp [State.NoFault, Status.reset])
  | ranBuildTw | ranNtt | ranBitrev => exact .inl (noFault_retire _)
  | micro lane path r t he hm hr hmicro => exact .inl (hmicro.noFault hs)

/-- Settles O25: of everything an event can do, only the two fault entries record a fault, and no command check gives
code 7. -/
theorem onlyChecksRaiseFaults : Obligations.OnlyChecksRaiseFaults := by
  intro s t e h hs ht
  obtain hno | ⟨hm, ⟨v, code, he, hc, rfl⟩ | hwrite⟩ := (onEvent_next h).noFault_or_faultEntry hs
  · exact absurd hno ht
  · refine ⟨hm, .inl ⟨v, code, he, hc, ?_, rfl⟩⟩
    rintro rfl
    exact check_ne_nonCanon _ _ _ _ hc
  · exact ⟨hm, .inr hwrite⟩

/-! ### In `FAULT` -/

theorem fieldSrst_of_decode_srst {v : Word32} {rsv : BitVec 31} (h : decode regCtrl v = .ok (.srst rsv)) :
    fieldSrst v = 1#1 := by
  by_contra hbit
  have hd : decode regCtrl v = .error (.controlNoOperation v) := if_neg hbit
  cases hd.symm.trans h

/-- In `FAULT` an event is ignored or is a read, unless it is one of the two resets (R73). -/
theorem Effect.of_fault {e : Event} {s t : State} (h : Effect e s t) (hm : s.status.mode = .fault) :
    e.Makes .reset ∨ (∃ v, e.Makes (.regWrite regCtrl v) ∧ fieldSrst v = 1#1) ∨ t = { s with replies := t.replies } := by
  have notIdle : s.status.mode ≠ .idle := by simp [hm]
  have notBusy : s.status.mode ≠ .busy := by simp [hm]
  cases h with
  | powerOn he => exact .inl he
  | soft v rsv _ he hd => exact .inr (.inl ⟨v, he, fieldSrst_of_decode_srst hd⟩)
  | ignored | answered => exact .inr (.inr rfl)
  | held _ hbusy | micro _ _ _ _ _ hbusy => exact absurd hbusy notBusy
  | checkFailed _ _ hidle | nonCanonical _ _ hidle | lenWritten _ hidle | dataWritten _ _ hidle
  | ranBuildTw _ _ _ hidle | ranNtt _ _ _ hidle | ranBitrev _ _ _ hidle | issued _ _ _ hidle =>
    exact absurd hidle notIdle

/-- The reset input acts at once in every state of the block (R260). -/
theorem hostOp_reset (s : State) (posted : Bool) : hostOp posted .reset s = .next (powerOnReset s) := by
  cases hm : s.status.mode with
  | idle => exact hostOp_of_idle rfl hm posted
  | busy => exact hostOp_of_busy rfl hm posted
  | fault => exact hostOp_of_fault rfl hm posted

/-- `STATUS` as either reset leaves it records no fault (R37). -/
theorem noFault_of_status_reset {s : State} (h : s.status = Status.reset) : s.NoFault ∧ s.status.err = none := by
  simp [State.NoFault, h, Status.reset]

/-- Settles O26: an event in `FAULT` by what it can do, the reads by what they do outside `BUSY`, and the two resets by
the `STATUS` they leave. -/
theorem faultIsSticky : Obligations.FaultIsSticky := by
  have notBusy : ∀ {s : State}, s.status.mode = .fault → s.status.mode ≠ .busy := fun hm => by simp [hm]
  refine ⟨fun s t e hm h => (onEvent_next h).of_fault hm, ?_, ?_, ?_, ?_, ?_⟩
  · exact fun s posted r hm => hostOp_regRead_of_not_busy (notBusy hm) posted r
  · intro s posted i v hm hi hread
    exact (hostOp_dRead_of_not_busy (notBusy hm) posted hi).trans (dRead_of_read_some hread)
  · intro s posted i v hm hi hread
    exact (hostOp_tRead_of_not_busy (notBusy hm) posted hi).trans (tRead_of_read_some hread)
  · intro s posted v hm hbit
    refine ⟨softReset s, ?_, noFault_of_status_reset (softReset_status s)⟩
    rw [hostOp_regCtrl_of_not_busy (notBusy hm), if_pos hbit]
  · exact fun s posted => ⟨powerOnReset s, hostOp_reset s posted, noFault_of_status_reset (powerOnReset_status s)⟩

end Sys2Proof.Machine
end

section
/-! The two resets (R261, R262): the state each of them leaves, and `NTT` faulting while there is no table. -/

namespace Sys2Proof.Machine

theorem Status.word_reset : Status.reset.word = 0#32 := by decide

/-- Settles O5: the reset input answers `powerOnReset` at once, and the registers of that state read by number. -/
theorem powerOnResetState : Obligations.PowerOnResetState := by
  intro s posted
  obtain ⟨hcmd, -, hstatus, -, hctrl, hmcs, hsix, hseven⟩ := regValue_by_number (powerOnReset s)
  exact ⟨powerOnReset s, hostOp_reset s posted, powerOnReset_len s, powerOnReset_status s,
    hstatus.trans Status.word_reset, powerOnReset_twlen s, hmcs, hcmd, hctrl, hsix, hseven, powerOnReset_run s,
    fun _ => ⟨rfl, rfl⟩⟩

/-- With `TWLEN = 0` no length passes the check of `NTT`: one that the shared conditions admit is a power of two, and
`2*TWLEN` is not. -/
theorem checkLength_ntt_without_table (c : Cfg) (len : Word32) : ∃ code, checkLength c .ntt len 0#32 = some code := by
  by_cases hpow : ∃ m, len.toNat = 2 ^ m
  · obtain ⟨m, hlen⟩ := hpow
    obtain hcap | hfit := Nat.lt_or_ge c.nmax (2 ^ m)
    · exact ⟨.capacity, checkLength_of_capacity hlen hcap⟩
    · exact ⟨.twiddleLen, (checkLength_ntt_of_fits hlen hfit).trans (if_pos (Nat.two_pow_pos m).ne')⟩
  · exact ⟨.notPow2, checkLength_of_not_pow2 (not_exists.mp hpow)⟩

theorem execSrst_of_busy {s : State} (hm : s.status.mode = .busy) (rsv : BitVec 31) :
    execSrst rsv s = .next (hold (.call (.regWrite regCtrl (encode (.srst rsv)))) s) := by
  simp only [execSrst, hm, encodeReg]

/-- Settles O7: `SRST` by the state of the block, and `NTT` by its check, which fails without a table. -/
theorem softResetState : Obligations.SoftResetState := by
  refine ⟨fun s rsv hm => execSrst_of_not_busy hm rsv, fun s rsv hm => execSrst_of_busy hm rsv, ?_⟩
  intro s hm htable
  obtain ⟨code, hc⟩ := checkLength_ntt_without_table s.cfg s.len
  rw [← htable] at hc
  exact ⟨code, command_faults hm hc⟩

end Sys2Proof.Machine
end

section
/-! The encoding (R91, R92, R94) in both directions, and a step as the meaning of the decoded instruction. -/

namespace Sys2Proof.Machine

/-! ### Decoding and encoding -/

theorem fieldRsvK_append_fieldSrst (w : Word32) : fieldRsvK w ++ fieldSrst w = w :=
  (BitVec.extractLsb'_append_extractLsb'_eq_extractLsb' rfl).trans BitVec.extractLsb'_eq_self

@[simp] theorem fieldSrst_append (rsv : BitVec 31) (b : BitVec 1) : fieldSrst (rsv ++ b) = b :=
  BitVec.extractLsb'_append_eq_right

@[simp] theorem fieldRsvK_append (rsv : BitVec 31) (b : BitVec 1) : fieldRsvK (rsv ++ b) = rsv :=
  BitVec.extractLsb'_append_eq_left

/-- Format K loses no bit: the reserved bits are the instruction's field and bit 0 is fixed (R92). -/
theorem eq_encode_of_decodeK {w : Word32} {i : Instr} (h : decodeK w = .ok i) : w = encode i := by
  unfold decodeK at h
  split at h
  case isTrue hbit =>
    cases h
    rw [encode, ← hbit, fieldRsvK_append_fieldSrst]
  case isFalse => cases h

theorem eq_encode_of_decode {r : RegNum} {w : Word32} {i : Instr} (h : decode r w = .ok i) :
    r = encodeReg i ∧ w = encode i := by
  obtain ⟨rfl, hd, hn⟩ | ⟨rfl, rsv, rfl⟩ := decode_reg h
  · refine ⟨?_, eq_encode_of_decodeC hd⟩
    cases i with
    | buildTw | ntt | bitrev => rfl
    | srst rsv => exact absurd rfl (hn rsv)
  · exact ⟨rfl, eq_encode_of_decodeK h⟩

theorem decode_encode (i : Instr) : decode (encodeReg i) (encode i) = .ok i := by
  cases i with
  | buildTw | ntt | bitrev => rfl
  | srst rsv =>
    rw [encodeReg, encode, decode_regCtrl, decodeK, fieldSrst_append, fieldRsvK_append, if_pos rfl]

/-- Settles O1: the fields of a word determine it, so each format is decoded from its own words only. -/
theorem decodeAndEncodeAgree : Obligations.DecodeAndEncodeAgree := by
  refine fun r w i => ⟨eq_encode_of_decode, ?_⟩
  rintro ⟨rfl, rfl⟩
  exact decode_encode i

/-- Settles O3: each word is the encoding of its instruction; the illegal ones are no opcode. -/
theorem specWordsDecode : Obligations.SpecWordsDecode :=
  ⟨decode_encode .buildTw, decode_encode .ntt, decode_encode .bitrev, decode_encode (.srst 0#31),
    decode_encode (.srst 0x7FFFFFFF#31),
    decodeC_of_not_opcode (w := 0x00000012#32) (by decide) (by decide) (by decide),
    decodeC_of_not_opcode (w := 0x80000002#32) (by decide) (by decide) (by decide)⟩

/-! ### A step runs the decoded instruction -/

theorem step_of_inbox {s : State} {e : Event} {rest : List Event} (h : s.inbox = e :: rest) :
    step s = onEvent e { s with inbox := rest } := by
  rw [step, takeEvent, h]

theorem exec_of_busy {s : State} (hm : s.status.mode = .busy) (i : Instr) :
    exec i s = .next (hold (.call (.regWrite (encodeReg i) (encode i))) s) := by
  cases i with
  | buildTw | ntt | bitrev => simp only [exec, execBuildTw, execNtt, execBitrev, command, hm]
  | srst rsv => exact execSrst_of_busy hm rsv

/-- Made as a call, a register write that is an instruction is `exec` of it in every state of the block. -/
theorem hostOp_call_of_decode {r : RegNum} {w : Word32} {i : Instr} (hd : decode r w = .ok i) (s : State) :
    hostOp false (.regWrite r w) s = exec i s := by
  cases hm : s.status.mode with
  | idle =>
    rw [hostOp_of_idle rfl hm, opIdle, regWriteIdle, hd]
    rfl
  | busy =>
    obtain ⟨rfl, rfl⟩ := eq_encode_of_decode hd
    rw [hostOp_of_busy rfl hm, exec_of_busy hm]
    rfl
  | fault => rw [hostOp_of_fault rfl hm, opFault, regWriteFault, hd]

theorem hostOp_post_of_decode {w : Word32} {i : Instr} (hd : decode regCmd w = .ok i) {s : State}
    (hm : s.status.mode = .idle) : hostOp true (.regWrite regCmd w) s = postCommand i s := by
  obtain ⟨-, -, hn⟩ | ⟨hr, -⟩ := decode_reg hd
  · rw [hostOp_regCmd_of_decodeC hm hd]
    cases i with
    | buildTw | ntt | bitrev => rfl
    | srst rsv => exact absurd rfl (hn rsv)
  · exact absurd hr (by decide)

/-- Settles O4: the head of the inbox is the event of the step, and a table word is placed as a call at that head. -/
theorem stepRunsDecodedInstruction : Obligations.StepRunsDecodedInstruction := by
  refine ⟨?_, ?_, ?_⟩
  · intro s r w i rest hin hd
    rw [step_of_inbox hin]
    exact hostOp_call_of_decode hd _
  · intro s w i rest hin hd hm
    rw [step_of_inbox hin]
    exact hostOp_post_of_decode hd hm
  · intro s nbits w i hd
    have hd' : decode (tableReg nbits w) (tableWord nbits w) = .ok i := by
      unfold decodeTableWord at hd
      split at hd
      · rename_i j hj
        rwa [Option.some.inj hd] at hj
      · cases hd
    rw [step_of_inbox (s := s.withFetchWord nbits w) rfl]
    exact hostOp_call_of_decode hd' s

end Sys2Proof.Machine
end

section
/-! The registers and the port by the state of the block: the fields of `STATUS`, writes in `IDLE`, what `BUSY` holds,
commands outside `IDLE`, and the state after reset. -/

namespace Sys2Proof.Machine

/-! ### The `STATUS` word -/

/-- Each field of `STATUS` reads back from the word it is laid out in (R26). -/
theorem Status.word_fields (st : Status) :
    st.word.extractLsb' 0 2 = st.mode.code ∧ st.word.extractLsb' 2 1 = BitVec.ofBool st.done ∧
      st.word.extractLsb' 3 1 = 0#1 ∧ st.word.extractLsb' 4 4 = st.errCode ∧ st.word.extractLsb' 8 24 = 0#24 := by
  have layout : ∀ (e : BitVec 4) (d : BitVec 1) (m : BitVec 2),
      (0#24 ++ e ++ 0#1 ++ d ++ m).extractLsb' 0 2 = m ∧ (0#24 ++ e ++ 0#1 ++ d ++ m).extractLsb' 2 1 = d ∧
      (0#24 ++ e ++ 0#1 ++ d ++ m).extractLsb' 3 1 = 0#1 ∧ (0#24 ++ e ++ 0#1 ++ d ++ m).extractLsb' 4 4 = e ∧
      (0#24 ++ e ++ 0#1 ++ d ++ m).extractLsb' 8 24 = 0#24 := by decide
  exact layout st.errCode (BitVec.ofBool st.done) st.mode.code

theorem Status.word_mode (st : Status) : st.word.extractLsb' 0 2 = st.mode.code := st.word_fields.1

theorem Status.word_err (st : Status) : st.word.extractLsb' 4 4 = st.errCode := by
  obtain ⟨-, -, -, herr, -⟩ := st.word_fields
  exact herr

/-- Settles O8: the register map by its numbers, the fields of `STATUS` by its layout, and the codes that `STATE` and
`ERR` then hold. -/
theorem registerMap : Obligations.RegisterMap :=
  ⟨regValue_by_number, Status.word_fields,
    fun _ _ => ⟨Status.word_mode _, Status.word_mode _, Status.word_mode _⟩,
    fun _ _ => ⟨Status.word_err _, Status.word_err _, Status.word_err _, Status.word_err _, Status.word_err _,
      Status.word_err _, Status.word_err _, Status.word_err _⟩⟩

/-! ### Writes in `IDLE` -/

theorem hostOp_regLen_of_idle {s : State} (hm : s.status.mode = .idle) (posted : Bool) (v : Word32) :
    hostOp posted (.regWrite regLen v) s = .next { s with len := v } := by
  rw [hostOp_of_idle rfl hm, opIdle, regWriteIdle, decode_of_other_register (by decide) (by decide)]
  exact congrArg Host.Outcome.next (if_pos rfl)

/-- Settles O9: `LEN` takes the value, the other registers ignore it, and a control word does what its bit 0 says. -/
theorem registerWritesInIdle : Obligations.RegisterWritesInIdle := by
  intro s v posted hm
  have notBusy : s.status.mode ≠ .busy := by simp [hm]
  refine ⟨hostOp_regLen_of_idle hm posted v, ?_, fun hbit => ?_, fun hbit => ?_⟩
  · rintro r (rfl | rfl | rfl | rfl | rfl) <;>
    exact hostOp_ignored_register_of_not_busy notBusy (by decide) (by decide) (by decide) posted v
  · rw [hostOp_regCtrl_of_not_busy notBusy, hbit, if_neg (by decide)]
  · rw [hostOp_regCtrl_of_not_busy notBusy, if_pos hbit]
    rfl

/-! ### `BUSY` and `FAULT` -/

/-- While a command runs `STATUS` reads as `STATE = BUSY` and nothing else (R26, R33). -/
theorem FlagsInv.word_of_busy {s : State} (h : FlagsInv s) (hm : s.status.mode = .busy) :
    s.status.word = 0x00000001#32 := by
  have hdone : s.status.done = false := by
    by_contra hd
    simpa [hm] using h.done_idle (by simpa using hd)
  have herr : s.status.err = none := by
    by_contra he
    simpa [hm] using h.err_iff.mp (Option.isSome_iff_ne_none.mpr he)
  rw [Status.word, Status.errCode, hm, hdone, herr]
  rfl

theorem hold_of_run {s : State} {r : Run} (hr : s.run = some r) (e : Event) :
    hold e s = { s with run := some { r with held := r.held ++ [e] } } := by
  rw [hold, hr, Option.map_some]

/-- Settles O12: of the operations the port can express only the reset input and a read of `STATUS` act in `BUSY`. -/
theorem busyHoldsHostOperations : Obligations.BusyHoldsHostOperations := by
  intro s r posted hflags hm hr
  refine ⟨?_, fun op hreset hstatus hf => ?_⟩
  · rw [hostOp_of_busy rfl hm, ← hflags.word_of_busy hm]
    rfl
  · rw [hostOp_of_busy hf hm, ← hold_of_run hr]
    cases op with
    | regRead n =>
      have hn : n ≠ regStatus := fun h => hstatus (congrArg HostOp.regRead h)
      exact if_neg hn
    | reset => exact absurd rfl hreset
    | regWrite | dRead | dWrite | tRead => rfl

theorem command_of_fault {s : State} (hm : s.status.mode = .fault) (i : Instr)
    (body : Run → State → Except Refusal State) : command i body s = .next s := by
  simp only [command, hm]

/-- Settles O13: every command begins with the state of the block. -/
theorem commandsOutsideIdle : Obligations.CommandsOutsideIdle := by
  rintro i s (rfl | rfl | rfl) <;> exact ⟨fun hm => command_of_fault hm _ _, fun hm => exec_of_busy hm _⟩

/-! ### Nothing at the port, and the reset -/

/-- Settles O42: with nothing at the port only a running command moves. -/
theorem quietBlockWaits : Obligations.QuietBlockWaits := by
  intro s hin hm
  rw [step, takeEvent, hin]
  change engineStep 0 [] s = .next s
  unfold engineStep
  split
  case h_1 hbusy _ => exact absurd hbusy hm
  case h_2 => rfl

/-- Settles O54: the reset input answers `powerOnReset` in every state. -/
theorem powerOnResetKeepsHostSide : Obligations.PowerOnResetKeepsHostSide :=
  fun s posted => ⟨powerOnReset s, hostOp_reset s posted, rfl, rfl, rfl⟩

theorem flagsInv_of_reset {s : State} (hst : s.status = Status.reset) (hr : s.run = none) : FlagsInv s :=
  ⟨by simp [hst, Status.reset], by simp [hst, Status.reset], by simp [hst, hr, Status.reset]⟩

/-- With `TWLEN = 0` there is no table to speak of (R35). -/
theorem tableInv_of_twlen_zero {s : State} (h : s.twlen = 0#32) : TableInv s := by
  intro m _ hm
  rw [h] at hm
  exact absurd hm.symm (Nat.two_pow_pos _).ne'

/-- Empty memories and the reset values of the registers and flags meet the invariant (R37). -/
theorem blockInv_of_reset {s : State} (hst : s.status = Status.reset) (htw : s.twlen = 0#32) (hd : s.dmem = [])
    (ht : s.tmem = []) (hr : s.run = none) : BlockInv s where
  form := ⟨hd ▸ wf_nil, ht ▸ wf_nil⟩
  flags := flagsInv_of_reset hst hr
  dmem_within := by simp [Memory.Within, hd]
  tmem_within := by simp [Memory.Within, ht]
  dmem_canonical := by simp [Memory.Canonical, hd]
  tmem_canonical := by simp [Memory.Canonical, ht]
  twlen_legal := .inl htw
  table := fun _ => tableInv_of_twlen_zero htw
  progress := by simp [hr]

/-- Settles O6: the state after reset holds no word, no table and no command. -/
theorem resetEstablishesInvariant : Obligations.ResetEstablishesInvariant :=
  ⟨fun _ => blockInv_of_reset rfl rfl rfl rfl rfl, blockInv_of_reset rfl rfl rfl rfl rfl⟩

end Sys2Proof.Machine
end

section
/-! What every event keeps: the memories in canonical form, the flags, the configuration; and which events write `TMEM`,
`LEN` and `TWLEN`. -/

namespace Sys2Proof.Machine

/-- A step is the effect of one event: the head of the inbox, or the engine's own next step on lane 0. -/
theorem step_effect {s t : State} (h : step s = .next t) : ∃ e rest, Effect e { s with inbox := rest } t := by
  obtain ⟨e, rest, -, he⟩ | ⟨-, rfl | ⟨hm, r, hr, hmicro⟩⟩ := step_next h
  · exact ⟨e, rest, he⟩
  · exact ⟨.engine 0 [], t.inbox, .ignored⟩
  · exact ⟨.engine 0 [], s.inbox, .micro 0 [] r t rfl hm hr hmicro⟩

/-! ### What the commands keep of a memory -/

/-- `Q` survives what the engine does to a memory: a butterfly stores two canonical words over two words that have
values (R171), and `SWAP` exchanges two words (R141). -/
structure KeptByEngine (p : Nat) (Q : Memory → Prop) : Prop where
  butterfly : ∀ {d i j v w}, Q d → (∃ a, d.read i = some a) → (∃ b, d.read j = some b) → v < p → w < p →
    Q ((d.write i v).write j w)
  swap : ∀ {d i j a b}, Q d → d.read i = some a → d.read j = some b → Q ((d.write i b).write j a)

theorem wf_keptByEngine (p : Nat) : KeptByEngine p Memory.wf where
  butterfly h _ _ _ _ := wf_write (wf_write h _ _) _ _
  swap h _ _ := wf_write (wf_write h _ _) _ _

theorem canonical_keptByEngine (p : Nat) : KeptByEngine p (Memory.Canonical p) where
  butterfly h _ _ hv hw := canonical_write (canonical_write h hv) hw
  swap h ha hb := canonical_write (canonical_write h (h _ (mem_of_read hb))) (h _ (mem_of_read ha))

theorem within_keptByEngine (p n : Nat) : KeptByEngine p (Memory.Within n) where
  butterfly h hi hj _ _ := by
    obtain ⟨⟨a, ha⟩, b, hb⟩ := hi, hj
    exact within_write (within_write h (h _ (mem_of_read ha))) (h _ (mem_of_read hb))
  swap h ha hb := within_write (within_write h (h _ (mem_of_read ha))) (h _ (mem_of_read hb))

section
variable {c : Cfg} {t : Memory} {Q : Memory → Prop} (hQ : KeptByEngine c.p Q)
include hQ

/-- A butterfly's two writes come after its two reads, and store results of the kernel. -/
theorem KeptByEngine.of_bflyStore {d : Memory} {p q : Nat} {lane : Lane} (hd : Q d)
    (hp : d.read p = some lane.ev ∧ lane.ev < c.p) (hq : d.read q = some lane.od) : Q (bflyStore c lane p q d) := by
  have hpos : 0 < c.p := Nat.zero_lt_of_lt hp.2
  exact hQ.butterfly hd ⟨_, hp.1⟩ ⟨_, hq⟩ (fadd_lt hpos _ _) (fsub_lt hpos _ _)

theorem KeptByEngine.of_bflyLoad {d : Memory} {p q ti : Nat} {lane : Lane} (hd : Q d)
    (h : bflyLoad c t p q ti d = .ok lane) : Q (bflyStore c lane p q d) := by
  obtain ⟨hp, hq, -⟩ := bflyLoad_eq_ok.mp h
  exact hQ.of_bflyStore hd hp hq.1

theorem KeptByEngine.of_bfly0Load {d : Memory} {p q : Nat} {lane lane' : Lane} (hd : Q d)
    (h : bfly0Load c lane p q d = .ok lane') : Q (bflyStore c lane' p q d) := by
  obtain ⟨hp, hq, -⟩ := bfly0Load_eq_ok.mp h
  exact hQ.of_bflyStore hd hp hq.1

theorem KeptByEngine.of_bfly {d d' : Memory} {p q ti : Nat} (hd : Q d) (h : bfly c t p q ti d = .ok d') : Q d' := by
  unfold bfly at h
  split at h
  · cases h
  · rename_i lane hload
    cases h
    exact hQ.of_bflyLoad hd hload

theorem KeptByEngine.of_bfly0 {d d' : Memory} {p q : Nat} (hd : Q d) (h : bfly0 c p q d = .ok d') : Q d' := by
  unfold bfly0 at h
  split at h
  · cases h
  · rename_i lane hload
    cases h
    exact hQ.of_bfly0Load hd hload

theorem KeptByEngine.of_combineLoop {o s k j : Nat} {d d' : Memory} (hd : Q d)
    (h : combineLoop c t o s k j d = .ok d') : Q d' := by
  induction k generalizing j d with
  | zero => cases h; exact hd
  | succ k ih =>
    rw [combineLoop] at h
    split at h
    · cases h
    · rename_i d₁ hbfly
      exact ih (hQ.of_bfly hd hbfly) h

theorem KeptByEngine.of_nttSub {nl f o s : Nat} {d d' : Memory} (hd : Q d) (h : nttSub c t nl f o s d = .ok d') :
    Q d' := by
  induction f generalizing o s d d' with
  | zero => cases h; exact hd
  | succ f ih =>
    rw [nttSub] at h
    split at h
    · cases h; exact hd
    · split at h
      · exact hQ.of_bfly0 hd h
      · split at h
        · cases h
        · rename_i d₁ heven
          split at h
          · cases h
          · rename_i d₂ hodd
            exact hQ.of_combineLoop (ih (ih hd heven) hodd) h

theorem KeptByEngine.of_taskStep {nl : Nat} {lane lane' : Lane} {d d' : Memory} {path : List Bool} {tk tk' : Task}
    (hd : Q d) (h : taskStep c nl t lane d path tk = .ok (tk', lane', d')) : Q d' := by
  induction tk generalizing path tk' with
  | done o s => cases h; exact hd
  | descend o s =>
    rw [taskStep] at h
    split at h
    · cases h; exact hd
    · split at h
      · split at h
        · cases h
        · rename_i hload
          cases h
          exact hQ.of_bfly0Load hd hload
      · cases h; exact hd
  | join o s par even odd iheven ihodd =>
    rw [taskStep] at h
    split at h
    · cases h; exact hd
    · split at h
      · split at h
        · cases h
        · rename_i hchild
          cases h
          exact ihodd hchild
      · split at h
        · cases h
        · rename_i hchild
          cases h
          exact iheven hchild
  | combine o s j =>
    rw [taskStep] at h
    split at h
    · split at h
      · cases h
      · rename_i hload
        cases h
        exact hQ.of_bflyLoad hd hload
    · cases h; exact hd

end

section
variable {p : Nat} {Q : Memory → Prop} (hQ : KeptByEngine p Q)
include hQ

theorem KeptByEngine.of_permuteStep {sp : Space} {b i tmp tmp' : Nat} {m m' : Memory}
    (hm : Q m) (h : permuteStep sp b i tmp m = .ok (tmp', m')) : Q m' := by
  obtain ⟨-, -, rfl⟩ | ⟨-, hswap⟩ := permuteStep_eq_ok h
  · exact hm
  · obtain ⟨w, ha, hb, rfl⟩ := swap_eq_ok.mp hswap
    exact hQ.swap hm ha hb

theorem KeptByEngine.of_permuteLoop {sp : Space} {b k i : Nat} {m m' : Memory} (hm : Q m)
    (h : permuteLoop sp b k i m = .ok m') : Q m' := by
  induction k generalizing i m with
  | zero => cases h; exact hm
  | succ k ih =>
    rw [permuteLoop] at h
    split at h
    · cases h
    · rename_i tmp' m₁ hstep
      exact ih (hQ.of_permuteStep hm hstep) h

end

/-! ### The memories -/

/-- `PSER` keeps what each of its writes keeps: to an index of its range, of a word of which `V` is known. -/
theorem pserLoop_keeps {c : Cfg} {g n : Nat} {Q : Memory → Prop} {V : Nat → Prop} (hmul : ∀ a, V (fmul c a g))
    (hwrite : ∀ {t j v}, j < n → V v → Q t → Q (Memory.write t j v)) {k i acc : Nat} {t : Memory} (hn : i + k ≤ n)
    (hacc : V acc) (h : Q t) : Q (pserLoop c g k i acc t) := by
  induction k generalizing i acc t with
  | zero => exact h
  | succ k ih => exact ih (by omega) (hmul acc) (hwrite (by omega) hacc h)

/-- What the atomic `BUILD_TW` leaves: the power series, bit-reversed (R156). -/
theorem buildTwBody_eq_ok {r : Run} {s u : State} (h : buildTwBody r s = .ok u) :
    ∃ t, permuteLoop .tmem (logLength r.nl.toNat - 1) (halfLength r.nl.toNat) 0
      (pser s.cfg r.gen (halfLength r.nl.toNat) s.tmem) = .ok t ∧ u = retire { s with tmem := t } := by
  unfold buildTwBody at h
  split at h
  · cases h
  · rename_i t hloop
    cases h
    exact ⟨t, hloop, rfl⟩

/-- Of `DMEM`: a micro-operation keeps what the engine's accesses keep. -/
theorem MicroEffect.keeps_dmem {lane : Nat} {path : List Bool} {r : Run} {s t : State} {Q : Memory → Prop}
    (hQ : KeptByEngine s.cfg.p Q) (h : MicroEffect lane path r s t) (hd : Q s.dmem) : Q t.dmem := by
  cases h with
  | series | seriesEnd | table => exact hd
  | data i tmp m _ _ hstep => exact hQ.of_permuteStep hd hstep
  | task tk tk' lane' d' _ _ hstep => exact hQ.of_taskStep hd hstep
  | retireTable | retireData | retireTasks => rwa [retire_dmem]

/-- Of `DMEM`: an event keeps what the engine's accesses, `DWrite` (R63) and power-on reset keep. -/
theorem Effect.keeps_dmem {e : Event} {s t : State} {Q : Memory → Prop} (hQ : KeptByEngine s.cfg.p Q) (hnil : Q [])
    (hwrite : ∀ i v, i < s.cfg.nmax → v < s.cfg.p → Q (s.dmem.write i v)) (h : Effect e s t) (hd : Q s.dmem) :
    Q t.dmem := by
  cases h with
  | ignored | held | answered | soft | checkFailed | nonCanonical | lenWritten | issued => exact hd
  | powerOn => exact hnil
  | dataWritten i v _ _ hi hv => exact hwrite i v hi hv
  | ranBuildTw => rwa [retire_dmem]
  | ranNtt w r d _ _ _ _ _ hsub => rw [retire_dmem]; exact hQ.of_nttSub hd hsub
  | ranBitrev w r d _ _ _ _ _ hloop => rw [retire_dmem]; exact hQ.of_permuteLoop hd hloop
  | micro lane path r t _ _ _ hmicro => exact hmicro.keeps_dmem hQ hd

/-- Of `TMEM`: a micro-operation keeps what the engine's accesses and the write of `PSER` keep. -/
theorem MicroEffect.keeps_tmem {lane : Nat} {path : List Bool} {r : Run} {s t : State} {Q : Memory → Prop}
    (hQ : KeptByEngine s.cfg.p Q)
    (hseries : ∀ i, r.seq = .series i → i < halfLength r.nl.toNat → Q (s.tmem.write i r.acc))
    (h : MicroEffect lane path r s t) (ht : Q s.tmem) : Q t.tmem := by
  cases h with
  | series i hseq hi => exact hseries i hseq hi
  | seriesEnd | data | task => exact ht
  | table i tmp m _ _ hstep => exact hQ.of_permuteStep ht hstep
  | retireTable | retireData | retireTasks => rwa [retire_tmem]

/-- Of `TMEM`: an event keeps what the engine's accesses, `PSER` and power-on reset keep. -/
theorem Effect.keeps_tmem {e : Event} {s t : State} {Q : Memory → Prop} (hQ : KeptByEngine s.cfg.p Q) (hnil : Q [])
    (hseries : ∀ r i, s.run = some r → r.seq = .series i → i < halfLength r.nl.toNat → Q (s.tmem.write i r.acc))
    (hpser : s.status.mode = .idle → checkLength s.cfg .buildTw s.len s.twlen = none →
      ∀ r, latch .buildTw s = .ok r → Q (pser s.cfg r.gen (halfLength r.nl.toNat) s.tmem))
    (h : Effect e s t) (ht : Q s.tmem) : Q t.tmem := by
  cases h with
  | ignored | held | answered | soft | checkFailed | nonCanonical | lenWritten | dataWritten | issued => exact ht
  | powerOn => exact hnil
  | ranBuildTw w r _ hm _ _ hc hlatch hbody =>
    obtain ⟨t', hloop, heq⟩ := buildTwBody_eq_ok hbody
    rw [heq, retire_tmem]
    exact hQ.of_permuteLoop (hpser hm hc r hlatch) hloop
  | ranNtt | ranBitrev => rwa [retire_tmem]
  | micro lane path r t _ _ hr hmicro => exact hmicro.keeps_tmem hQ (hseries r · hr) ht

theorem wf_pser {t : Memory} (h : t.wf) (c : Cfg) (g k : Nat) : (pser c g k t).wf :=
  pserLoop_keeps (Q := Memory.wf) (V := fun _ => True) (fun _ => trivial) (fun _ _ h => wf_write h _ _) le_rfl trivial h

theorem Effect.memoryForm {e : Event} {s t : State} (h : Effect e s t) (hs : MemoryForm s) : MemoryForm t where
  dmem := h.keeps_dmem (wf_keptByEngine _) wf_nil (fun _ _ _ _ => wf_write hs.dmem _ _) hs.dmem
  tmem := h.keeps_tmem (wf_keptByEngine _) wf_nil (fun _ _ _ _ _ => wf_write hs.tmem _ _)
    (fun _ _ _ _ => wf_pser hs.tmem _ _ _) hs.tmem

/-- Settles O35: every access of the engine and of the port is a write, and a write keeps the form. -/
theorem stepKeepsMemoryForm : Obligations.StepKeepsMemoryForm := by
  intro s t hs h
  obtain ⟨e, rest, heffect⟩ := step_effect h
  exact heffect.memoryForm ⟨hs.dmem, hs.tmem⟩

/-! ### The flags and the hidden state -/

section
variable {s t : State}

theorem FlagsInv.run_none (h : FlagsInv s) (hm : s.status.mode ≠ .busy) : s.run = none := by
  by_contra hr
  exact hm (h.run_iff.mp (Option.isSome_iff_ne_none.mpr hr))

theorem FlagsInv.err_none (h : FlagsInv s) (hm : s.status.mode ≠ .fault) : s.status.err = none := by
  by_contra he
  exact hm (h.err_iff.mp (Option.isSome_iff_ne_none.mpr he))

/-- The invariant reads the flags and whether there is hidden state, and nothing else. -/
theorem FlagsInv.congr (h : FlagsInv s) (hst : t.status = s.status) (hr : t.run.isSome = s.run.isSome) : FlagsInv t :=
  ⟨by rw [hst]; exact h.err_iff, by rw [hst]; exact h.done_idle, by rw [hst, hr]; exact h.run_iff⟩

theorem FlagsInv.faultEntry (h : FlagsInv s) (hm : s.status.mode = .idle) (code : Err) :
    FlagsInv (faultEntry code s) := by
  have hr : s.run = none := h.run_none (by simp [hm])
  exact ⟨by simp, by simp, by simp [hr]⟩

theorem FlagsInv.beginRun (h : FlagsInv s) (hm : s.status.mode = .idle) (r : Run) : FlagsInv (beginRun r s) := by
  have herr : s.status.err = none := h.err_none (by simp [hm])
  exact ⟨by simp [herr], by simp, by simp⟩

theorem FlagsInv.retire (h : FlagsInv s) (hm : s.status.mode ≠ .fault) : FlagsInv (retire s) := by
  have herr : s.status.err = none := h.err_none hm
  exact ⟨by simp [herr], by simp, by simp⟩

theorem MicroEffect.flagsInv {lane : Nat} {path : List Bool} {r : Run} (h : MicroEffect lane path r s t)
    (hs : FlagsInv s) (hm : s.status.mode = .busy) (hr : s.run = some r) : FlagsInv t := by
  cases h with
  | series | seriesEnd | table | data | task => exact hs.congr rfl (by simp [hr])
  | retireTable | retireData | retireTasks => exact hs.retire (by simp [hm])

theorem Effect.flagsInv {e : Event} (h : Effect e s t) (hs : FlagsInv s) : FlagsInv t := by
  cases h with
  | ignored => exact hs
  | answered | lenWritten | dataWritten => exact hs.congr rfl rfl
  | held => exact hs.congr rfl (by simp)
  | powerOn => exact flagsInv_of_reset rfl rfl
  | soft v rsv hm => exact flagsInv_of_reset rfl (hs.run_none hm)
  | checkFailed v code hm => exact hs.faultEntry hm code
  | nonCanonical i v hm => exact hs.faultEntry hm .nonCanon
  | ranBuildTw w r _ hm | ranNtt w r _ hm | ranBitrev w r _ hm =>
    exact ((hs.beginRun hm r).retire (by simp)).congr (by simp) (by simp)
  | issued w i r hm => exact hs.beginRun hm r
  | micro lane path r t _ hm hr hmicro => exact hmicro.flagsInv hs hm hr

end

/-- Settles O36: fault entry, issue, retire and the resets set the flags and the hidden state together, and every other
event leaves them. -/
theorem stepKeepsFlagsInvariant : Obligations.StepKeepsFlagsInvariant := by
  intro s t hs h
  obtain ⟨e, rest, heffect⟩ := step_effect h
  exact heffect.flagsInv (hs.congr rfl rfl)

/-! ### The configuration -/

theorem MicroEffect.cfg {lane : Nat} {path : List Bool} {r : Run} {s t : State} (h : MicroEffect lane path r s t) :
    t.cfg = s.cfg := by
  cases h with
  | series | seriesEnd | table | data | task => rfl
  | retireTable | retireData | retireTasks => exact retire_cfg s

theorem Effect.cfg {e : Event} {s t : State} (h : Effect e s t) : t.cfg = s.cfg := by
  cases h with
  | ignored | held | answered | powerOn | soft | checkFailed | nonCanonical | lenWritten | dataWritten | issued => rfl
  | ranBuildTw | ranNtt | ranBitrev => exact retire_cfg _
  | micro lane path r t _ _ _ hmicro => exact hmicro.cfg

theorem regValue_regMcs (s : State) : regValue s regMcs = BitVec.ofNat 32 s.cfg.mcs := rfl

/-- Settles O38: no effect writes the configuration, and `MCS` reads from it. -/
theorem configurationNeverChanges : Obligations.ConfigurationNeverChanges := by
  intro s t h
  obtain ⟨e, rest, heffect⟩ := step_effect h
  have hcfg : t.cfg = s.cfg := heffect.cfg
  exact ⟨hcfg, by rw [regValue_regMcs, regValue_regMcs, hcfg]⟩

/-! ### Who writes what -/

/-- A command is decoded from its own word (R91). -/
theorem call_buildTw {e : Event} {w : Word32} (he : e = .call (.regWrite regCmd w)) (hd : decodeC w = .ok .buildTw) :
    e = .call (.regWrite regCmd 1#32) := by
  rw [he, eq_encode_of_decodeC hd]
  rfl

theorem MicroEffect.len {lane : Nat} {path : List Bool} {r : Run} {s t : State} (h : MicroEffect lane path r s t) :
    t.len = s.len := by
  cases h with
  | series | seriesEnd | table | data | task => rfl
  | retireTable | retireData | retireTasks => exact retire_len s

/-- Settles O40: of everything an event can do, only a write to register 1 and the two resets write `LEN`. -/
theorem lenWriters : Obligations.LenWriters := by
  intro s t e h hne
  cases onEvent_next h with
  | lenWritten v hm he => exact .inl ⟨v, he, hm, rfl⟩
  | powerOn he => exact .inr ⟨rfl, .inl he⟩
  | soft v rsv _ he hd => exact .inr ⟨rfl, .inr ⟨v, he, fieldSrst_of_decode_srst hd⟩⟩
  | ignored | held | answered | checkFailed | nonCanonical | dataWritten | issued => exact absurd rfl hne
  | ranBuildTw | ranNtt | ranBitrev => exact absurd (retire_len _) hne
  | micro lane path r t _ _ _ hmicro => exact absurd hmicro.len hne

/-- Only a retire writes `TWLEN`, and only that of `BUILD_TW` (R204). -/
theorem retire_twlen_of_ne {s : State} {r : Run} (hr : s.run = some r) (h : (retire s).twlen ≠ s.twlen) :
    r.opl = 1#4 ∧ (retire s).twlen = r.nl >>> 1 := by
  rw [retire_twlen s r hr] at h ⊢
  by_cases hopl : r.opl = 1#4
  · exact ⟨hopl, if_pos hopl⟩
  · exact absurd (if_neg hopl) h

theorem MicroEffect.twlen {lane : Nat} {path : List Bool} {r : Run} {s t : State} (h : MicroEffect lane path r s t)
    (hr : s.run = some r) (hne : t.twlen ≠ s.twlen) : r.opl = 1#4 ∧ t.twlen = r.nl >>> 1 ∧ t.run = none := by
  cases h with
  | series | seriesEnd | table | data | task => exact absurd rfl hne
  | retireTable | retireData | retireTasks =>
    obtain ⟨hopl, htwlen⟩ := retire_twlen_of_ne hr hne
    exact ⟨hopl, htwlen, retire_run s⟩

theorem latch_opl {i : Instr} {s : State} {r : Run} (h : latch i s = .ok r) : r.opl = opcode i ∧ r.nl = s.len := by
  obtain ⟨-, g, -, rfl⟩ := latch_eq_ok h
  exact ⟨rfl, rfl⟩

/-- Settles O41: a retire writes `TWLEN` when the opcode latched is that of `BUILD_TW`; the two resets clear it. -/
theorem twlenWriters : Obligations.TwlenWriters := by
  intro s t e h hne
  cases onEvent_next h with
  | powerOn he => exact .inl ⟨rfl, .inl he⟩
  | soft v rsv _ he hd => exact .inl ⟨rfl, .inr ⟨v, he, fieldSrst_of_decode_srst hd⟩⟩
  | ranBuildTw w r t' hm he hd _ hlatch =>
    obtain ⟨-, htwlen⟩ := retire_twlen_of_ne (s := { beginRun r s with tmem := t' }) rfl hne
    exact .inr (.inl ⟨hm, call_buildTw he hd, by rw [htwlen, (latch_opl hlatch).2]⟩)
  | ranNtt w r d _ _ _ _ hlatch =>
    obtain ⟨hopl, -⟩ := retire_twlen_of_ne (s := { beginRun r s with dmem := d }) rfl hne
    exact absurd ((latch_opl hlatch).1.symm.trans hopl) (by decide)
  | ranBitrev w r d _ _ _ _ hlatch =>
    obtain ⟨hopl, -⟩ := retire_twlen_of_ne (s := { beginRun r s with dmem := d }) rfl hne
    exact absurd ((latch_opl hlatch).1.symm.trans hopl) (by decide)
  | micro lane path r t he hm hr hmicro => exact .inr (.inr ⟨hm, lane, path, r, he, hr, hmicro.twlen hr hne⟩)
  | ignored | held | answered | checkFailed | nonCanonical | lenWritten | dataWritten | issued => exact absurd rfl hne

/-- The loops of `BUILD_TW` alone write `TMEM`, and only `BUILD_TW` runs them (R33). -/
theorem MicroEffect.tmem {lane : Nat} {path : List Bool} {r : Run} {s t : State} (h : MicroEffect lane path r s t)
    (hprogress : Progress s r) (hne : t.tmem ≠ s.tmem) : r.opl = 1#4 := by
  obtain ⟨m, -, -, hseq⟩ := hprogress
  cases h with
  | series i hi => rw [hi] at hseq; exact hseq.1
  | table i tmp t' hi => rw [hi] at hseq; exact hseq.1
  | seriesEnd | data | task => exact absurd rfl hne
  | retireTable | retireData | retireTasks => exact absurd (retire_tmem s) hne

/-- Settles O39: besides power-on reset, `TMEM` is written by the body of `BUILD_TW` and by the micro-operations of its
two loops. -/
theorem onlyBuildTwWritesTable : Obligations.OnlyBuildTwWritesTable := by
  intro s t e hs h hne
  cases onEvent_next h with
  | powerOn he => exact .inl he
  | ranBuildTw w r t' hm he hd => exact .inr (.inl ⟨hm, call_buildTw he hd⟩)
  | micro lane path r t he hm hr hmicro =>
    exact .inr (.inr ⟨hm, lane, path, r, he, hr, hmicro.tmem (hs.progress r hr) hne⟩)
  | ranNtt | ranBitrev => exact absurd (retire_tmem _) hne
  | ignored | held | answered | soft | checkFailed | nonCanonical | lenWritten | dataWritten | issued =>
    exact absurd rfl hne

end Sys2Proof.Machine
end

section
/-! The laws of the field (R126) on canonical words, `FEXP` (R124) and `FROOT` (R125). -/

namespace Sys2Proof.Machine

/-- Settles O46: each law is the law of `ZMod P`, read on canonical representatives. -/
theorem fieldLaws : Obligations.FieldLaws := by
  intro c x y z hc hx hy hz
  have hp := hc.prime.pos
  have law : ∀ {a b : Nat}, a < c.p → b < c.p → (a : ZMod c.p) = b → a = b := eq_of_natCast_eq
  have hadd := fadd_lt hp
  have hmul := fmul_lt hp
  have hsub := fsub_lt hp
  refine ⟨?_, ?_, ?_, ?_, ?_, ?_, fadd_zero_right hx, fmul_one_right hx, ?_, ?_⟩
  · exact congrArg (· % c.p) (Nat.add_comm x y)
  · exact congrArg (· % c.p) (Nat.mul_comm x y)
  · refine law (hadd _ _) (hadd _ _) ?_
    simp only [cast_fadd, add_assoc]
  · refine law (hmul _ _) (hmul _ _) ?_
    simp only [cast_fmul, mul_assoc]
  · refine law (hmul _ _) (hadd _ _) ?_
    simp only [cast_fmul, cast_fadd, mul_add]
  · refine law (hmul _ _) (hsub _ _) ?_
    simp only [cast_fmul, cast_fsub hp, mul_sub]
  · refine law (hsub _ _) (hadd _ _) ?_
    simp only [cast_fadd, cast_fsub hp, Nat.cast_zero, zero_sub, ← sub_eq_add_neg]
  · refine law (hadd _ _) hx ?_
    simp only [cast_fadd, cast_fsub hp, sub_add_cancel]

theorem fexp_zero_base {c : Cfg} {e : Nat} (he : 0 < e) : fexp c 0 e = 0 := by
  rw [fexp, Nat.zero_pow he, Nat.zero_mod]

section
variable {c : Cfg} (hc : c.Valid)
include hc

/-- Fermat's theorem on canonical words. -/
theorem fexp_pred {a : Nat} (ha : a < c.p) (hne : a ≠ 0) : fexp c a (c.p - 1) = 1 := by
  have := Fact.mk hc.prime
  have hunit : (a : ZMod c.p) ≠ 0 := fun h => hne (eq_of_natCast_eq ha hc.prime.pos (by simpa using h))
  refine eq_of_natCast_eq (Nat.mod_lt _ hc.prime.pos) hc.prime.one_lt ?_
  rw [fexp, ZMod.natCast_mod, Nat.cast_pow, ZMod.pow_card_sub_one_eq_one hunit, Nat.cast_one]

theorem froot_of_le {k : Nat} (hk : k ≤ c.twoAdicity) :
    froot c k = .ok (c.rootAt k) ∧ fexp c (c.rootAt k) (2 ^ k) = 1 := by
  obtain ⟨-, hpow, -⟩ := hc.root_primitive k hk
  exact ⟨if_neg hk.not_gt, hpow⟩

/-- The root of order 1 is one. -/
theorem rootAt_zero : c.rootAt 0 = 1 := by
  obtain ⟨hlt, hpow, -⟩ := hc.root_primitive 0 (Nat.zero_le _)
  rwa [pow_zero, pow_one, Nat.mod_eq_of_lt hlt] at hpow

/-- The root of order 2 is `P - 1`. -/
theorem rootAt_one (hS : 1 ≤ c.twoAdicity) : c.rootAt 1 = c.p - 1 := by
  have hroot := hc.root_primitive 1 hS
  have hp := hc.prime.pos
  refine eq_of_natCast_eq hroot.1 (Nat.sub_lt hp one_pos) ?_
  rw [natCast_of_primitiveRoot_one hc hroot, natCast_pred hp]

end

/-- Settles O47: the conventions of `FEXP` and Fermat's theorem; the configured roots have the orders R6 gives. -/
theorem fexpAndFrootResults : Obligations.FexpAndFrootResults := by
  intro c a e k hc ha
  refine ⟨fexp_zero hc.prime.one_lt a, fexp_succ c a e, fexp_zero_base, fexp_pred hc ha, fun hk => if_pos hk,
    froot_of_le hc, ?_, fun hS => ?_⟩
  · rw [(froot_of_le hc (Nat.zero_le _)).1, rootAt_zero hc]
  · rw [(froot_of_le hc hS).1, rootAt_one hc hS]

end Sys2Proof.Machine
end

section
/-! `BITREV` (R142), the commands over a word without a value (R36), and issue and retire (R200, R204) with the
fork-join dispatch (R181, R182). -/

namespace Sys2Proof.Machine

/-! ### The permutation -/

/-- A word moved to `rev_m(i)` is found there: `rev_m` is its own inverse. -/
theorem Memory.Holds.read_rev {m : Nat} {x : Nat → Nat} {mem : Memory} (h : mem.Holds (2 ^ m) (fun k => x (rev m k)))
    {i : Nat} (hi : i < 2 ^ m) : mem.read (rev m i) = some (x i) := by
  have hread : mem.read (rev m i) = some (x (rev m (rev m i))) := h _ (rev_lt_two_pow m i)
  rwa [rev_rev_of_lt hi] at hread

/-- Settles O18: the loop composes the sequence with `rev_m`, which is its own inverse. -/
theorem permutationUnitReversesIndices : Obligations.PermutationUnitReversesIndices := by
  intro sp m x mem h
  obtain ⟨mem', hloop, hholds, hframe⟩ := permuteLoop_of_holds sp h
  exact ⟨mem', hloop, fun i hi => hholds.read_rev hi, hholds, hframe⟩

/-- Settles O19: the loop is the whole run of `BITREV`. -/
theorem bitrevPermutesSequence : Obligations.BitrevPermutesSequence := by
  intro s m x hready h
  obtain ⟨d, hexec, hd, hframe⟩ := exec_bitrev_of_ready hready h
  exact ⟨d, hexec, fun i hi => hd.read_rev hi, hframe⟩

/-! ### A range with a word without a value -/

/-- The first word without a value, by its two properties. -/
theorem firstMissing_eq_some_of {m : Memory} {n k : Nat} (hk : k < n) (hnone : m.read k = none)
    (hbelow : ∀ l, l < k → (m.read l).isSome = true) : m.firstMissing n 0 = some k := by
  cases h : m.firstMissing n 0 with
  | none =>
    have hsome := (firstMissing_eq_none m n 0).mp h k (Nat.zero_le k) (by omega)
    simp [hnone] at hsome
  | some j =>
    obtain ⟨-, -, hj, hjbelow⟩ := firstMissing_eq_some h
    obtain hlt | rfl | hgt := Nat.lt_trichotomy j k
    · simpa [hj] using hbelow j hlt
    · rfl
    · simpa [hnone] using hjbelow k (Nat.zero_le k) hgt

theorem command_of_missing {i : Instr} {body : Run → State → Except Refusal State} {s : State} {r : Refusal}
    (hm : s.status.mode = .idle) (hc : checkLength s.cfg i s.len s.twlen = none) (hmiss : missingWord i s = some r) :
    command i body s = .refused r := by
  simp only [command, hm, hc, latch, hmiss]

/-- Settles O21: the check passes, and the range begins with `D[0..n)`. -/
theorem commandOnMissingWordIsRefused : Obligations.CommandOnMissingWordIsRefused := by
  intro s m k i hready hi hk hnone hbelow
  have hfit : 2 ^ m ≤ s.cfg.nmax := Nat.pow_le_pow_right two_pos hready.capacity
  have hfirst : s.dmem.firstMissing s.len.toNat 0 = some k := by
    rw [hready.len]
    exact firstMissing_eq_some_of hk hnone hbelow
  obtain rfl | ⟨rfl, htwlen⟩ := hi
  · exact command_of_missing hready.idle (checkLength_bitrev_of_ready hready) (by rw [missingWord, hfirst])
  · have hc : checkLength s.cfg .ntt s.len s.twlen = none := by
      rw [checkLength_ntt_of_fits hready.len hfit, if_neg (not_not.mpr htwlen)]
    exact command_of_missing hready.idle hc (by rw [missingWord, hfirst])

/-! ### Issue -/

/-- A posted command whose checks pass and whose words are there is issued (R200). -/
theorem hostOp_post_of_latch {s : State} {i : Instr} {r : Run} (hm : s.status.mode = .idle)
    (hd : decodeC (encode i) = .ok i) (hc : checkLength s.cfg i s.len s.twlen = none) (hr : latch i s = .ok r) :
    hostOp true (.regWrite regCmd (encode i)) s = .next (beginRun r s) := by
  rw [hostOp_post_of_decode hd hm]
  exact command_runs hm hc hr rfl

/-- Settles O27: under the checks of each command the hidden state is the one R200 gives. -/
theorem issueLatchesOperands : Obligations.IssueLatchesOperands := by
  intro s m i hcfg hready hi
  obtain ⟨rfl, hm, hmS⟩ | ⟨rfl, x, hx⟩ | ⟨rfl, hntt, x, hx⟩ := hi
  · exact ⟨_, hostOp_post_of_latch hready.idle rfl (checkLength_buildTw_of_ready hready hm hmS)
      (latch_buildTw_of_ready hready hcfg hmS), rfl, rfl, rfl⟩
  · exact ⟨_, hostOp_post_of_latch hready.idle rfl (checkLength_bitrev_of_ready hready)
      (latch_bitrev_of_holds hready hx), rfl, rfl, rfl⟩
  · exact ⟨_, hostOp_post_of_latch hready.idle rfl (checkLength_ntt_of_ready hntt)
      (latch_ntt_of_holds hntt hx), rfl, rfl, rfl⟩

/-! ### Retire -/

theorem onEvent_engine {lane : Nat} {path : List Bool} {r : Run} {s : State} (hm : s.status.mode = .busy)
    (hr : s.run = some r) (hlane : lane < s.cfg.lanes) :
    onEvent (.engine lane path) s = microStep lane path r s := by
  have hengine : engineStep lane path s = microStep lane path r s := by simp only [engineStep, hm, hr]
  rw [← hengine]
  exact if_pos hlane

/-- An engine event of a running command is one of its micro-operations. -/
theorem microEffect_of_engine {lane : Nat} {path : List Bool} {r : Run} {s t : State} (hm : s.status.mode = .busy)
    (hr : s.run = some r) (h : onEvent (.engine lane path) s = .next t) : MicroEffect lane path r s t := by
  by_cases hlane : lane < s.cfg.lanes
  · rw [onEvent_engine hm hr hlane] at h
    exact microStep_next h
  · cases (if_neg hlane).symm.trans h

theorem retire_of_run {s : State} {r : Run} (hr : s.run = some r) : retire s = { s with
    twlen := if r.opl = 1#4 then r.nl >>> 1 else s.twlen
    status := { s.status with mode := .idle, done := true }
    run := none
    inbox := r.held ++ s.inbox } := by
  simp only [retire, hr, Status.retired]

/-- Settles O28: of the micro-operations only the retire leaves `BUSY`. -/
theorem retireReleasesHeldOperations : Obligations.RetireReleasesHeldOperations := by
  intro s t r lane path hm hr h hne
  cases microEffect_of_engine hm hr h with
  | series | seriesEnd | table | data | task => exact absurd hm hne
  | retireTable | retireData | retireTasks => exact retire_of_run hr

/-! ### The tasks -/

/-- A butterfly in any lane is the butterfly: `BFLY0` does not use the twiddle the lane held (R171). -/
theorem bfly0_of_load {c : Cfg} {d : Memory} {p q : Nat} {lane lane' : Lane} (h : bfly0Load c lane p q d = .ok lane') :
    bfly0 c p q d = .ok (bflyStore c lane' p q d) := by
  obtain ⟨⟨hev, hevp⟩, ⟨hod, hodp⟩, -, hpr⟩ := bfly0Load_eq_ok.mp h
  rw [bfly0_of_reads hev hod hevp hodp, bflyStore, bflyStore, hpr]

theorem bfly_of_load {c : Cfg} {t d : Memory} {p q ti : Nat} {lane : Lane} (h : bflyLoad c t p q ti d = .ok lane) :
    bfly c t p q ti d = .ok (bflyStore c lane p q d) := by
  rw [bfly, h]

section
variable {c : Cfg} {nl : Nat} {t d : Memory} {lane : Lane} {path : List Bool} {o s : Nat}

theorem taskStep_descend_fork (hz : 2 < nl / s) : taskStep c nl t lane d path (.descend o s) =
    .ok (.join o s (decide (c.mcs ≤ nl / s / 2)) (.descend o (2 * s)) (.descend (o + s) (2 * s)), lane, d) := by
  rw [taskStep, if_neg (by omega), if_neg (by omega), runsConcurrently]

theorem taskStep_descend_one (hz : nl / s ≤ 1) :
    taskStep c nl t lane d path (.descend o s) = .ok (.done o s, lane, d) := by
  rw [taskStep, if_pos hz]

theorem taskStep_descend_two {lane' : Lane} (hz : nl / s = 2) (hload : bfly0Load c lane o (o + s) d = .ok lane') :
    taskStep c nl t lane d path (.descend o s) = .ok (.done o s, lane', bflyStore c lane' o (o + s) d) := by
  rw [taskStep, if_neg (by omega), if_pos hz, hload]

theorem taskStep_join_done {par : Bool} {even odd : Task} (heven : even.isDone = true) (hodd : odd.isDone = true) :
    taskStep c nl t lane d path (.join o s par even odd) = .ok (.combine o s 0, lane, d) := by
  simp only [taskStep, heven, hodd, Bool.and_self, if_true]

theorem taskStep_combine {j : Nat} {lane' : Lane} (hj : j < nl / s / 2)
    (hload : bflyLoad c t (o + 2 * j * s) (o + 2 * j * s + s) j d = .ok lane') :
    taskStep c nl t lane d path (.combine o s j) =
      .ok (.combine o s (j + 1), lane', bflyStore c lane' (o + 2 * j * s) (o + 2 * j * s + s) d) := by
  rw [taskStep, if_pos hj, hload]

theorem taskStep_combine_end {j : Nat} (hj : nl / s / 2 ≤ j) :
    taskStep c nl t lane d path (.combine o s j) = .ok (.done o s, lane, d) := by
  rw [taskStep, if_neg hj.not_gt]

theorem exists_of_map_eq_ok {ε α β : Type} {f : α → β} {x : Except ε α} {b : β} (h : x.map f = .ok b) :
    ∃ a, x = .ok a ∧ f a = b := by
  cases x with
  | error e => cases h
  | ok a => cases h; exact ⟨a, rfl, rfl⟩

/-- The odd child moves when it is not done and the even one is, or the two are concurrent and the path names it. -/
def oddMoves (par : Bool) (path : List Bool) (even odd : Task) : Bool :=
  even.isDone || (par && pathHead path && !odd.isDone)

theorem oddMoves_of_true {par : Bool} {even odd : Task} (hlive : (even.isDone && odd.isDone) = false)
    (h : oddMoves par path even odd = true) :
    odd.isDone = false ∧ (even.isDone = true ∨ par = true ∧ pathHead path = true) := by
  obtain heven | ⟨⟨hpar, hpath⟩, hodd⟩ :
      even.isDone = true ∨ (par = true ∧ pathHead path = true) ∧ odd.isDone = false := by
    simpa [oddMoves] using h
  · rw [heven, Bool.true_and] at hlive
    exact ⟨hlive, .inl heven⟩
  · exact ⟨hodd, .inr ⟨hpar, hpath⟩⟩

theorem oddMoves_of_false {par : Bool} {even odd : Task} (h : oddMoves par path even odd = false) :
    even.isDone = false ∧ (par = false ∨ pathHead path = false ∨ odd.isDone = true) := by
  simpa [oddMoves, Classical.or_iff_not_imp_left] using h

theorem taskStep_join_odd {par : Bool} {even odd : Task} (hlive : (even.isDone && odd.isDone) = false)
    (hmoves : oddMoves par path even odd = true) :
    taskStep c nl t lane d path (.join o s par even odd) =
      (taskStep c nl t lane d path.tail odd).map fun x => (.join o s par even x.1, x.2) := by
  unfold oddMoves at hmoves
  rw [taskStep, if_neg (by simp [hlive]), if_pos hmoves]
  cases taskStep c nl t lane d path.tail odd <;> rfl

theorem taskStep_join_even {par : Bool} {even odd : Task} (hlive : (even.isDone && odd.isDone) = false)
    (hmoves : oddMoves par path even odd = false) :
    taskStep c nl t lane d path (.join o s par even odd) =
      (taskStep c nl t lane d path.tail even).map fun x => (.join o s par x.1 odd, x.2) := by
  unfold oddMoves at hmoves
  rw [taskStep, if_neg (by simp [hlive]), if_neg (by simp [hmoves])]
  cases taskStep c nl t lane d path.tail even <;> rfl

end

/-- Settles O29: the step of each phase, and at a join the one child that `oddMoves` names. -/
theorem forkAndJoinDispatch : Obligations.ForkAndJoinDispatch := by
  intro c nl t d lane path o s
  refine ⟨taskStep_descend_fork, ?_, taskStep_descend_one, fun par even odd => taskStep_join_done, ?_, ?_⟩
  · intro t' lane' d' hz h
    rw [taskStep, if_neg (by omega), if_pos hz] at h
    split at h
    · cases h
    · rename_i hload
      cases h
      exact ⟨rfl, hload, bfly0_of_load hload⟩
  · intro par even odd t' lane' d' hlive h
    have hlive' : (even.isDone && odd.isDone) = false := by
      obtain h | h := hlive <;> simp [h]
    cases hmoves : oddMoves par path even odd with
    | true =>
      rw [taskStep_join_odd hlive' hmoves] at h
      obtain ⟨⟨odd', lane₁, d₁⟩, hchild, heq⟩ := exists_of_map_eq_ok h
      cases heq
      obtain ⟨hodd, hwhy⟩ := oddMoves_of_true hlive' hmoves
      exact .inr ⟨odd', rfl, hodd, hwhy, hchild⟩
    | false =>
      rw [taskStep_join_even hlive' hmoves] at h
      obtain ⟨⟨even', lane₁, d₁⟩, hchild, heq⟩ := exists_of_map_eq_ok h
      cases heq
      obtain ⟨heven, hwhy⟩ := oddMoves_of_false hmoves
      exact .inl ⟨even', rfl, heven, hwhy, hchild⟩
  · intro j t' lane' d' h
    obtain hj | hj := Nat.lt_or_ge j (nl / s / 2)
    · rw [taskStep, if_pos hj] at h
      split at h
      · cases h
      · rename_i hload
        cases h
        exact .inl ⟨hj, rfl, hload, bfly_of_load hload⟩
    · rw [taskStep_combine_end hj] at h
      cases h
      exact .inr ⟨hj, rfl, rfl, rfl⟩

end Sys2Proof.Machine
end

section
/-! The invariant of the block (R27, R34, R35, R61): the words of both memories, then the table with the progress of a
running command. -/

namespace Sys2Proof.Machine

/-! ### What a command that passed its check knows -/

/-- A check that passes leaves the block ready: the length is a power of two within the memory (R223). -/
theorem ready_of_checkLength {s : State} {i : Instr} (hm : s.status.mode = .idle)
    (hc : checkLength s.cfg i s.len s.twlen = none) : ∃ m, Ready s m := by
  by_cases hpow : ∃ m, s.len.toNat = 2 ^ m
  · obtain ⟨m, hlen⟩ := hpow
    obtain hcap | hfit := Nat.lt_or_ge s.cfg.nmax (2 ^ m)
    · cases hc.symm.trans (checkLength_of_capacity hlen hcap)
    · exact ⟨m, hm, hlen, (Nat.pow_le_pow_iff_right Nat.one_lt_two).mp hfit⟩
  · cases hc.symm.trans (checkLength_of_not_pow2 (not_exists.mp hpow))

section
variable {s : State} {m : Nat} (hready : Ready s m)
include hready

theorem Ready.fits : 2 ^ m ≤ s.cfg.nmax := Nat.pow_le_pow_right two_pos hready.capacity

theorem Ready.of_checkLength_buildTw (hc : checkLength s.cfg .buildTw s.len s.twlen = none) :
    1 ≤ m ∧ m ≤ s.cfg.twoAdicity := by
  rw [checkLength_buildTw_of_fits hready.len hready.fits] at hc
  split_ifs at hc
  omega

theorem Ready.of_checkLength_ntt (hc : checkLength s.cfg .ntt s.len s.twlen = none) : 2 ^ m = 2 * s.twlen.toNat := by
  rw [checkLength_ntt_of_fits hready.len hready.fits] at hc
  split_ifs at hc with hne
  exact not_not.mp hne

end

/-! ### The words -/

/-- Every word of `m` is canonical (R34) and lies in the address space `[0, n)` (R61). -/
structure Memory.Legal (p n : Nat) (m : Memory) : Prop where
  canonical : m.Canonical p
  within : m.Within n

theorem Memory.Legal.nil (p n : Nat) : Memory.Legal p n [] := ⟨by simp [Memory.Canonical], by simp [Memory.Within]⟩

theorem Memory.Legal.write {p n : Nat} {m : Memory} (h : m.Legal p n) {i v : Nat} (hi : i < n) (hv : v < p) :
    Memory.Legal p n (m.write i v) :=
  ⟨canonical_write h.canonical hv, within_write h.within hi⟩

theorem legal_keptByEngine (p n : Nat) : KeptByEngine p (Memory.Legal p n) where
  butterfly h hi hj hv hw := ⟨(canonical_keptByEngine p).butterfly h.canonical hi hj hv hw,
    (within_keptByEngine p n).butterfly h.within hi hj hv hw⟩
  swap h ha hb := ⟨(canonical_keptByEngine p).swap h.canonical ha hb, (within_keptByEngine p n).swap h.within ha hb⟩

section
variable {s t : State} {e : Event} (hs : BlockInv s)
include hs

theorem BlockInv.dmem_legal : s.dmem.Legal s.cfg.p s.cfg.nmax := ⟨hs.dmem_canonical, hs.dmem_within⟩

theorem BlockInv.tmem_legal : s.tmem.Legal s.cfg.p (s.cfg.nmax / 2) := ⟨hs.tmem_canonical, hs.tmem_within⟩

theorem Effect.dmem_legal (h : Effect e s t) : t.dmem.Legal s.cfg.p s.cfg.nmax :=
  h.keeps_dmem (legal_keptByEngine _ _) (.nil _ _) (fun _ _ => hs.dmem_legal.write) hs.dmem_legal

/-- `ACC` is canonical while `PSER` runs, and its indices are below half the length. -/
theorem BlockInv.series_write (hp : 0 < s.cfg.p) {r : Run} {i : Nat} (hr : s.run = some r) (hseq : r.seq = .series i)
    (hi : i < halfLength r.nl.toNat) : Memory.Legal s.cfg.p (s.cfg.nmax / 2) (s.tmem.write i r.acc) := by
  obtain ⟨m, hnl, hcap, hprogress⟩ := hs.progress r hr
  rw [hseq] at hprogress
  obtain ⟨-, -, -, -, -, hacc, -⟩ := hprogress
  have hfit : 2 ^ m ≤ s.cfg.nmax := Nat.pow_le_pow_right two_pos hcap
  refine hs.tmem_legal.write (hi.trans_le ?_) (hacc ▸ Nat.mod_lt _ hp)
  rw [halfLength, hnl]
  exact Nat.div_le_div_right hfit

theorem BlockInv.pser_legal (hp : 1 < s.cfg.p) {n : Nat} (hn : n ≤ s.cfg.nmax / 2) (g : Nat) :
    Memory.Legal s.cfg.p (s.cfg.nmax / 2) (pser s.cfg g n s.tmem) :=
  pserLoop_keeps (Q := Memory.Legal _ _) (V := (· < s.cfg.p)) (fun _ => fmul_lt (by omega) _ _)
    (fun hj hv h => h.write (by omega) hv)
    (Nat.zero_add n).le hp hs.tmem_legal

theorem Effect.tmem_legal (hc : s.cfg.Valid) (h : Effect e s t) : t.tmem.Legal s.cfg.p (s.cfg.nmax / 2) := by
  refine h.keeps_tmem (legal_keptByEngine _ _) (.nil _ _) (fun r i => hs.series_write hc.prime.pos) ?_ hs.tmem_legal
  intro hm hcheck r hlatch
  obtain ⟨m, hready⟩ := ready_of_checkLength hm hcheck
  obtain ⟨-, hnl⟩ := latch_opl hlatch
  refine hs.pser_legal hc.prime.one_lt ?_ _
  rw [hnl, halfLength, hready.len]
  exact Nat.div_le_div_right hready.fits

end

/-! ### The table -/

/-- What the invariant says of `TWLEN`, the table and the running command. -/
structure TableState (s : State) : Prop where
  twlen_legal : TwlenLegal s
  table : s.status.mode ≠ .busy → TableInv s
  progress : ∀ r, s.run = some r → Progress s r

theorem tableInv_of_tableFor {s : State} {m : Nat} (hm : 1 ≤ m) (htwlen : s.twlen.toNat = 2 ^ (m - 1))
    (ht : TableFor s.cfg m s.tmem) : TableInv s := by
  intro m' hm' htwlen'
  have hexp : m' - 1 = m - 1 := Nat.pow_right_injective le_rfl (htwlen'.symm.trans htwlen)
  obtain rfl : m' = m := by omega
  exact ht

/-- `NL div 2` for `NL = 2^m` (R204). -/
theorem toNat_shiftRight_one {v : Word32} {m : Nat} (hm : 1 ≤ m) (h : v.toNat = 2 ^ m) :
    (v >>> 1).toNat = 2 ^ (m - 1) := by
  rw [BitVec.toNat_ushiftRight, h, Nat.shiftRight_one, two_pow_div_two hm]

/-- A table of a size that has a root, with `TWLEN` set to it: what `BUILD_TW` leaves. -/
theorem tableState_of_tableFor {s : State} {m : Nat} (hm : 1 ≤ m) (hcap : m ≤ s.cfg.logNmax)
    (hS : m ≤ s.cfg.twoAdicity) (htwlen : s.twlen.toNat = 2 ^ (m - 1)) (ht : TableFor s.cfg m s.tmem)
    (hr : s.run = none) : TableState s :=
  ⟨.inr ⟨m, hm, hcap, hS, htwlen⟩, fun _ => tableInv_of_tableFor hm htwlen ht, by simp [hr]⟩

section
variable {s t : State} (hcfg : t.cfg = s.cfg) (htwlen : t.twlen = s.twlen)
include hcfg htwlen

theorem TwlenLegal.congr (h : TwlenLegal s) : TwlenLegal t := by
  rw [TwlenLegal, hcfg, htwlen]
  exact h

theorem TableInv.congr (h : TableInv s) (ht : t.tmem = s.tmem) : TableInv t := by
  rw [TableInv, hcfg, htwlen, ht]
  exact h

/-- A command on `DMEM` leaves the table as it was. -/
theorem tableState_of_same_table (hlegal : TwlenLegal s) (htable : TableInv s) (ht : t.tmem = s.tmem)
    (hr : t.run = none) : TableState t :=
  ⟨hlegal.congr hcfg htwlen, fun _ => htable.congr hcfg htwlen ht, by simp [hr]⟩

end

/-- Retiring a command on `DMEM` leaves the table as it was. -/
theorem tableState_retire {s : State} {r : Run} (hr : s.run = some r) (hopl : r.opl ≠ 1#4) (hlegal : TwlenLegal s)
    (htable : TableInv s) : TableState (retire s) :=
  tableState_of_same_table (retire_cfg s) ((retire_twlen s r hr).trans (if_neg hopl)) hlegal htable (retire_tmem s)
    (retire_run s)

/-! ### Issue -/

theorem configuredRoot_eq_ok {c : Cfg} {k g : Nat} (h : configuredRoot c k = .ok g) : g = c.rootAt k := by
  unfold configuredRoot at h
  split at h
  · cases h
  · rename_i g' hfroot
    split at h
    · cases h
      unfold froot at hfroot
      split at hfroot
      · cases hfroot
      · exact (Except.ok.inj hfroot).symm
    · cases h

/-- What a command that passed its check latches is the start of its progress (R200). -/
theorem progress_startRun {s : State} {i : Instr} {r : Run} (hp : 1 < s.cfg.p) (hi : ∀ rsv, i ≠ .srst rsv)
    (hm : s.status.mode = .idle) (hc : checkLength s.cfg i s.len s.twlen = none) (hlatch : latch i s = .ok r)
    (htable : TableInv s) : Progress (beginRun r s) r := by
  obtain ⟨m, hready⟩ := ready_of_checkLength hm hc
  obtain ⟨-, g, hg, rfl⟩ := latch_eq_ok hlatch
  refine ⟨m, hready.len, hready.capacity, ?_⟩
  cases i with
  | srst rsv => exact absurd rfl (hi rsv)
  | ntt | bitrev => exact ⟨rfl, htable⟩
  | buildTw =>
    obtain ⟨hm1, hmS⟩ := hready.of_checkLength_buildTw hc
    rw [startGenerator, hready.len, logLength_two_pow] at hg
    refine ⟨rfl, hm1, hmS, configuredRoot_eq_ok hg, Nat.zero_le _, (fexp_zero hp _).symm, ?_⟩
    exact fun k hk => absurd hk (Nat.not_lt_zero k)

/-! ### Micro-operations -/

section
variable {lane : Nat} {path : List Bool} {r : Run} {s t : State}

theorem MicroEffect.tableState (h : MicroEffect lane path r s t) (hm : s.status.mode = .busy) (hr : s.run = some r)
    (hlegal : TwlenLegal s) (hprogress : Progress s r) : TableState t := by
  obtain ⟨m, hnl, hcap, hseq⟩ := hprogress
  have running : ∀ {u : State} {r' : Run}, u.status.mode = .busy → u.run = some r' → TwlenLegal u → Progress u r' →
      TableState u := fun hu hr' hl hp =>
    ⟨hl, fun h => absurd hu h, fun r'' hr'' => Option.some.inj (hr'.symm.trans hr'') ▸ hp⟩
  cases h with
  | series i hi hlt =>
    rw [hi] at hseq
    obtain ⟨hopl, hm1, hmS, hgen, -, hacc, hpowers⟩ := hseq
    rw [halfLength, hnl, two_pow_div_two hm1] at hlt
    refine running hm rfl hlegal ⟨m, hnl, hcap, hopl, hm1, hmS, hgen, hlt, ?_, fun k hk => ?_⟩
    · rw [hgen, hacc]
      exact (fexp_succ s.cfg _ i).symm
    · rw [read_write]
      split_ifs with hki
      · rw [hki, hacc]
      · exact hpowers k (by omega)
  | seriesEnd i hi hle =>
    rw [hi] at hseq
    obtain ⟨hopl, hm1, hmS, -, hle', -, hpowers⟩ := hseq
    rw [halfLength, hnl, two_pow_div_two hm1] at hle
    obtain rfl : i = 2 ^ (m - 1) := le_antisymm hle' hle
    have hmid : Midway (m - 1) 0 (fexp s.cfg (s.cfg.rootAt m)) s.tmem := midway_zero.mpr hpowers
    exact running hm rfl hlegal ⟨m, hnl, hcap, hopl, hm1, hmS, Nat.zero_le _, hmid⟩
  | table i tmp t' hi hlt hstep =>
    rw [hi] at hseq
    obtain ⟨hopl, hm1, hmS, -, hmid⟩ := hseq
    rw [halfLength, hnl, two_pow_div_two hm1] at hlt
    rw [hnl, logLength_two_pow] at hstep
    obtain ⟨tmp', m', hstep', hmid', -⟩ :=
      permuteStep_of_midway (x := fexp s.cfg (s.cfg.rootAt m)) .tmem hlt hmid r.tmp
    cases hstep.symm.trans hstep'
    exact running hm rfl hlegal ⟨m, hnl, hcap, hopl, hm1, hmS, hlt, hmid'⟩
  | data i tmp d hi hlt hstep =>
    rw [hi] at hseq
    obtain ⟨hopl, htable⟩ := hseq
    exact running hm rfl hlegal ⟨m, hnl, hcap, hopl, htable⟩
  | task tk tk' lane' d' hi hd hstep =>
    rw [hi] at hseq
    obtain ⟨hopl, htable⟩ := hseq
    exact running hm rfl hlegal ⟨m, hnl, hcap, hopl, htable⟩
  | retireTable i hi hle =>
    rw [hi] at hseq
    obtain ⟨hopl, hm1, hmS, hle', hmid⟩ := hseq
    rw [halfLength, hnl, two_pow_div_two hm1] at hle
    obtain rfl : i = 2 ^ (m - 1) := le_antisymm hle' hle
    have htable : TableFor s.cfg m s.tmem := Midway.holds_rev (x := fexp s.cfg (s.cfg.rootAt m)) hmid
    have htwlen : (retire s).twlen.toNat = 2 ^ (m - 1) := by
      rw [retire_twlen s r hr, if_pos hopl, toNat_shiftRight_one hm1 hnl]
    exact tableState_of_tableFor hm1 (by rwa [retire_cfg]) (by rwa [retire_cfg]) htwlen
      (by rwa [retire_cfg, retire_tmem]) (retire_run s)
  | retireData i hi =>
    rw [hi] at hseq
    obtain ⟨hopl, htable⟩ := hseq
    exact tableState_retire hr (by simp [hopl]) hlegal htable
  | retireTasks tk hi =>
    rw [hi] at hseq
    obtain ⟨hopl, htable⟩ := hseq
    exact tableState_retire hr (by simp [hopl]) hlegal htable

end

/-! ### Events -/

/-- The atomic `BUILD_TW` retires with the table for its size. -/
theorem exec_buildTw_eq {s : State} {r : Run} {u : State} (hc : s.cfg.Valid) (hm : s.status.mode = .idle)
    (hcheck : checkLength s.cfg .buildTw s.len s.twlen = none) (hlatch : latch .buildTw s = .ok r)
    (hbody : buildTwBody r (beginRun r s) = .ok u) :
    ∃ m t, 1 ≤ m ∧ m ≤ s.cfg.logNmax ∧ m ≤ s.cfg.twoAdicity ∧ s.len.toNat = 2 ^ m ∧ TableFor s.cfg m t ∧
      u = doneWithTable s t := by
  obtain ⟨m, hready⟩ := ready_of_checkLength hm hcheck
  obtain ⟨hm1, hmS⟩ := hready.of_checkLength_buildTw hcheck
  obtain ⟨t, hexec, htable, -⟩ := exec_buildTw_of_ready hready hm1 hc hmS
  have hrun : exec .buildTw s = .next u := command_runs hm hcheck hlatch hbody
  exact ⟨m, t, hm1, hready.capacity, hmS, hready.len, htable, Host.Outcome.next.inj (hrun.symm.trans hexec)⟩

theorem Effect.tableState {e : Event} {s t : State} (hc : s.cfg.Valid) (hs : BlockInv s) (h : Effect e s t) :
    TableState t := by
  have idleTable : s.status.mode = .idle → TableInv s := fun hm => hs.table (by simp [hm])
  have idleRun : s.status.mode = .idle → s.run = none := fun hm => hs.flags.run_none (by simp [hm])
  cases h with
  | ignored | answered | lenWritten | dataWritten => exact ⟨hs.twlen_legal, hs.table, hs.progress⟩
  | held e' hm =>
    refine ⟨hs.twlen_legal, hs.table, fun r' hr' => ?_⟩
    obtain ⟨r, hr, rfl⟩ := Option.map_eq_some_iff.mp hr'
    exact hs.progress r hr
  | powerOn => exact ⟨.inl rfl, fun _ => tableInv_of_twlen_zero rfl, by simp⟩
  | soft v rsv hm => exact ⟨.inl rfl, fun _ => tableInv_of_twlen_zero rfl, by simp [hs.flags.run_none hm]⟩
  | checkFailed v code hm => exact tableState_of_same_table rfl rfl hs.twlen_legal (idleTable hm) rfl (idleRun hm)
  | nonCanonical i v hm => exact tableState_of_same_table rfl rfl hs.twlen_legal (idleTable hm) rfl (idleRun hm)
  | ranBuildTw w r t' hm _ _ hcheck hlatch hbody =>
    obtain ⟨m, t'', hm1, hcap, hmS, hlen, htable, heq⟩ := exec_buildTw_eq hc hm hcheck hlatch hbody
    rw [heq]
    exact tableState_of_tableFor hm1 hcap hmS (toNat_shiftRight_one hm1 hlen) htable rfl
  | ranNtt w r d hm _ _ _ hlatch | ranBitrev w r d hm _ _ _ hlatch =>
    obtain ⟨hopl, -⟩ := latch_opl hlatch
    exact tableState_retire (s := { beginRun r s with dmem := d }) rfl (by rw [hopl]; decide) hs.twlen_legal
      (idleTable hm)
  | issued w i r hm _ hd hcheck hlatch =>
    obtain ⟨-, -, hn⟩ | ⟨hr, -⟩ := decode_reg (r := regCmd) hd
    · have hprogress := progress_startRun hc.prime.one_lt hn hm hcheck hlatch (idleTable hm)
      exact ⟨hs.twlen_legal, fun h => absurd rfl h, fun r' hr' => Option.some.inj hr' ▸ hprogress⟩
    · exact absurd hr (by decide)
  | micro lane path r t _ hm hr hmicro => exact hmicro.tableState hm hr hs.twlen_legal (hs.progress r hr)

theorem Effect.blockInv {e : Event} {s t : State} (hc : s.cfg.Valid) (hs : BlockInv s) (h : Effect e s t) :
    BlockInv t := by
  have hcfg : t.cfg = s.cfg := h.cfg
  have hd := h.dmem_legal hs
  have ht := h.tmem_legal hs hc
  have htable := h.tableState hc hs
  rw [← hcfg] at hd ht
  exact ⟨h.memoryForm hs.form, h.flagsInv hs.flags, hd.within, ht.within, hd.canonical, ht.canonical,
    htable.twlen_legal, htable.table, htable.progress⟩

theorem BlockInv.with_inbox {s : State} (h : BlockInv s) (inbox : List Event) : BlockInv { s with inbox := inbox } :=
  ⟨⟨h.form.dmem, h.form.tmem⟩, h.flags.congr rfl rfl, h.dmem_within, h.tmem_within, h.dmem_canonical,
    h.tmem_canonical, h.twlen_legal, h.table, h.progress⟩

/-- Settles O37: the words stay legal because every access is a kernel result or a move, and the table is what the two
loops of `BUILD_TW` have built when it retires. -/
theorem stepKeepsBlockInvariant : Obligations.StepKeepsBlockInvariant := by
  intro s t hc hs h
  obtain ⟨e, rest, heffect⟩ := step_effect h
  exact heffect.blockInv (s := { s with inbox := rest }) hc (hs.with_inbox rest)

end Sys2Proof.Machine
end

section
/-! What a sub-transform reads and writes (R173, R174, R183(a)): nothing outside its elements and the first half of its
size of the table; so a command of length `n` neither reads nor writes `D[n..NMAX)` (R31). -/

namespace Sys2Proof.Machine

/-! ### The footprint of a butterfly -/

section
variable {c : Cfg} {t u d d' e : Memory} {p q ti : Nat}

theorem read_bflyStore_of_ne {lane : Lane} {k : Nat} (hp : k ≠ p) (hq : k ≠ q) :
    (bflyStore c lane p q d).read k = d.read k := by
  rw [bflyStore, read_write_other _ _ hq, read_write_other _ _ hp]

theorem bfly_frame (h : bfly c t p q ti d = .ok d') {k : Nat} (hp : k ≠ p) (hq : k ≠ q) : d'.read k = d.read k := by
  unfold bfly at h
  split at h
  · cases h
  · cases h
    exact read_bflyStore_of_ne hp hq

theorem bfly0_frame (h : bfly0 c p q d = .ok d') {k : Nat} (hp : k ≠ p) (hq : k ≠ q) : d'.read k = d.read k := by
  unfold bfly0 at h
  split at h
  · cases h
  · cases h
    exact read_bflyStore_of_ne hp hq

theorem operandAt_congr {sp : Space} {i : Nat} (h : e.read i = d.read i) : operandAt c sp e i = operandAt c sp d i := by
  rw [operandAt, operandAt, h]

theorem bflyLoad_congr (hp : e.read p = d.read p) (hq : e.read q = d.read q) (ht : u.read ti = t.read ti) :
    bflyLoad c u p q ti e = bflyLoad c t p q ti d := by
  rw [bflyLoad, bflyLoad, operandAt_congr hp, operandAt_congr hq, operandAt_congr ht]

theorem bfly0Load_congr {lane : Lane} (hp : e.read p = d.read p) (hq : e.read q = d.read q) :
    bfly0Load c lane p q e = bfly0Load c lane p q d := by
  rw [bfly0Load, bfly0Load, operandAt_congr hp, operandAt_congr hq]

end

/-! ### Steps that fail with a refusal, one after the other -/

section
variable (c : Cfg) (t d : Memory) (nl f k j o s : Nat)

theorem combineLoop_succ : combineLoop c t o s (k + 1) j d =
    (bfly c t (o + 2 * j * s) (o + 2 * j * s + s) j d).bind (combineLoop c t o s k (j + 1)) := by
  rw [combineLoop]
  cases bfly c t (o + 2 * j * s) (o + 2 * j * s + s) j d <;> rfl

theorem nttSub_of_size_two (hz : nl / s = 2) : nttSub c t nl (f + 1) o s d = bfly0 c o (o + s) d := by
  rw [nttSub, if_neg (by omega), if_pos hz]

theorem nttSub_of_fork (hz : 2 < nl / s) : nttSub c t nl (f + 1) o s d =
    (nttSub c t nl f o (2 * s) d).bind fun d₁ =>
      (nttSub c t nl f (o + s) (2 * s) d₁).bind (combineLoop c t o s (nl / s / 2) 0) := by
  rw [nttSub, if_neg (by omega), if_neg (by omega)]
  cases nttSub c t nl f o (2 * s) d with
  | error r => rfl
  | ok d₁ =>
    dsimp only [Except.bind]
    cases nttSub c t nl f (o + s) (2 * s) d₁ <;> rfl

end

theorem exists_of_bind_eq_ok {ε α β : Type} {x : Except ε α} {f : α → Except ε β} {b : β} (h : x.bind f = .ok b) :
    ∃ a, x = .ok a ∧ f a = .ok b := by
  cases x with
  | error e => cases h
  | ok a => exact ⟨a, rfl, h⟩

/-! ### The sizes of the sub-problems -/

/-- A sub-problem has a child of half its size at twice its stride. -/
theorem div_two_mul {nl s f : Nat} (h : nl / s = 2 ^ (f + 1)) : nl / (2 * s) = 2 ^ f := by
  rw [Nat.mul_comm, ← Nat.div_div_eq_div_mul, h, Nat.pow_succ, Nat.mul_div_cancel _ two_pos]

theorem two_lt_two_pow (f : Nat) : 2 < 2 ^ (f + 2) := by
  have hpos := Nat.two_pow_pos f
  rw [Nat.pow_succ, Nat.pow_succ]
  omega

/-- The pair of butterfly `j` of a combine loop is elements `2j` and `2j + 1`. -/
theorem butterfly_elements {o s n j : Nat} (hj : j < n) :
    Element o s (2 * n) (o + 2 * j * s) ∧ Element o s (2 * n) (o + 2 * j * s + s) :=
  ⟨⟨2 * j, by omega, rfl⟩, ⟨2 * j + 1, by omega, by ring⟩⟩

/-! ### What a sub-transform writes -/

theorem bfly_sameOutside {c : Cfg} {t d d' : Memory} {o s n j : Nat} (hj : j < n)
    (h : bfly c t (o + 2 * j * s) (o + 2 * j * s + s) j d = .ok d') : Memory.SameOutside o s (2 * n) d d' := by
  obtain ⟨heven, hodd⟩ := butterfly_elements (o := o) (s := s) hj
  exact fun i hi => bfly_frame h (fun heq => hi (heq ▸ heven)) (fun heq => hi (heq ▸ hodd))

theorem combineLoop_sameOutside {c : Cfg} {t d d' : Memory} {o s n k j : Nat} (hjk : j + k ≤ n)
    (h : combineLoop c t o s k j d = .ok d') : Memory.SameOutside o s (2 * n) d d' := by
  induction k generalizing j d with
  | zero =>
    cases h
    exact fun _ _ => rfl
  | succ k ih =>
    rw [combineLoop_succ] at h
    obtain ⟨d₁, hbfly, hloop⟩ := exists_of_bind_eq_ok h
    exact (bfly_sameOutside (by omega) hbfly).trans (ih (by omega) hloop)

theorem nttSub_sameOutside {c : Cfg} {t d d' : Memory} {nl f o s : Nat} (hnl : nl / s = 2 ^ f)
    (h : nttSub c t nl f o s d = .ok d') : Memory.SameOutside o s (2 ^ f) d d' := by
  induction f generalizing o s d d' with
  | zero =>
    cases h
    exact fun _ _ => rfl
  | succ f ih =>
    rw [Nat.pow_succ']
    cases f with
    | zero =>
      rw [nttSub_of_size_two c t d nl 0 o s hnl] at h
      refine fun i hi => bfly0_frame h ?_ ?_ <;> rintro rfl
      · exact hi ⟨0, by decide, by omega⟩
      · exact hi ⟨1, by decide, by omega⟩
    | succ f =>
      rw [nttSub_of_fork c t d nl (f + 1) o s (hnl ▸ two_lt_two_pow f)] at h
      obtain ⟨d₁, heven, h⟩ := exists_of_bind_eq_ok h
      obtain ⟨d₂, hodd, hloop⟩ := exists_of_bind_eq_ok h
      have hchild := div_two_mul hnl
      have hhalf : nl / s / 2 = 2 ^ (f + 1) := by rw [hnl, two_pow_div_two (by omega), Nat.add_sub_cancel]
      rw [hhalf] at hloop
      exact ((ih hchild heven).of_even_child.trans (ih hchild hodd).of_odd_child).trans
        (combineLoop_sameOutside (Nat.zero_add _).le hloop)

/-! ### What a sub-transform reads -/

/-- Two results are alike on the indices in `E`: the same words there, or the same refusal. -/
inductive SameOn (E : Nat → Prop) : Except Refusal Memory → Except Refusal Memory → Prop where
  | ok {d e : Memory} : (∀ i, E i → e.read i = d.read i) → SameOn E (.ok d) (.ok e)
  | error (r : Refusal) : SameOn E (.error r) (.error r)

section
variable {E : Nat → Prop}

theorem SameOn.bind {E' : Nat → Prop} {x y : Except Refusal Memory} {f g : Memory → Except Refusal Memory}
    (h : SameOn E x y)
    (hfg : ∀ d e, x = .ok d → y = .ok e → (∀ i, E i → e.read i = d.read i) → SameOn E' (f d) (g e)) :
    SameOn E' (x.bind f) (y.bind g) := by
  cases h with
  | ok hde => exact hfg _ _ rfl rfl hde
  | error r => exact .error r

/-- Two runs that agree on the words they use, and write nowhere else, agree wherever they agreed before. -/
theorem SameOn.widen {o s n : Nat} {d e : Memory} {x y : Except Refusal Memory} (h : SameOn (Element o s n) x y)
    (hde : ∀ i, E i → e.read i = d.read i) (hx : ∀ d', x = .ok d' → Memory.SameOutside o s n d d')
    (hy : ∀ e', y = .ok e' → Memory.SameOutside o s n e e') : SameOn E x y := by
  cases h with
  | error r => exact .error r
  | ok hsame =>
    refine .ok fun i hi => ?_
    by_cases hin : Element o s n i
    · exact hsame i hin
    · rw [hx _ rfl i hin, hy _ rfl i hin, hde i hi]

variable {c : Cfg} {t u d e : Memory} {p q : Nat} (hde : ∀ i, E i → e.read i = d.read i)
include hde

theorem bflyStore_sameOn (lane : Lane) : SameOn E (.ok (bflyStore c lane p q d)) (.ok (bflyStore c lane p q e)) := by
  refine .ok fun i hi => ?_
  simp only [bflyStore, read_write, hde i hi]

variable (hp : E p) (hq : E q)
include hp hq

theorem bfly_sameOn {ti : Nat} (ht : u.read ti = t.read ti) : SameOn E (bfly c t p q ti d) (bfly c u p q ti e) := by
  rw [bfly, bfly, bflyLoad_congr (hde p hp) (hde q hq) ht]
  cases bflyLoad c t p q ti d with
  | error r => exact .error r
  | ok lane => exact bflyStore_sameOn hde lane

theorem bfly0_sameOn : SameOn E (bfly0 c p q d) (bfly0 c p q e) := by
  rw [bfly0, bfly0, bfly0Load_congr (hde p hp) (hde q hq)]
  cases bfly0Load c Lane.clear p q d with
  | error r => exact .error r
  | ok lane => exact bflyStore_sameOn hde lane

end

section
variable {c : Cfg} {t u : Memory}

theorem combineLoop_sameOn {d e : Memory} {o s n k j : Nat} (ht : ∀ j, j < n → u.read j = t.read j) (hjk : j + k ≤ n)
    (hde : ∀ i, Element o s (2 * n) i → e.read i = d.read i) :
    SameOn (Element o s (2 * n)) (combineLoop c t o s k j d) (combineLoop c u o s k j e) := by
  induction k generalizing j d e with
  | zero => exact .ok hde
  | succ k ih =>
    obtain ⟨heven, hodd⟩ := butterfly_elements (o := o) (s := s) (n := n) (j := j) (by omega)
    rw [combineLoop_succ, combineLoop_succ]
    exact (bfly_sameOn hde heven hodd (ht j (by omega))).bind fun _ _ _ _ => ih (by omega)

/-- A sub-transform depends on its own elements and on the first half of its size of the table alone. -/
theorem nttSub_sameOn {d e : Memory} {nl f o s : Nat} (hnl : nl / s = 2 ^ f)
    (ht : ∀ j, j < nl / s / 2 → u.read j = t.read j) (hde : ∀ i, Element o s (2 ^ f) i → e.read i = d.read i) :
    SameOn (Element o s (2 ^ f)) (nttSub c t nl f o s d) (nttSub c u nl f o s e) := by
  induction f generalizing o s d e with
  | zero => exact .ok hde
  | succ f ih =>
    rw [Nat.pow_succ'] at hde ⊢
    cases f with
    | zero =>
      rw [nttSub_of_size_two c t d nl 0 o s hnl, nttSub_of_size_two c u e nl 0 o s hnl]
      exact bfly0_sameOn hde ⟨0, by decide, by omega⟩ ⟨1, by decide, by omega⟩
    | succ f =>
      have hz : 2 < nl / s := hnl ▸ two_lt_two_pow f
      have hchild := div_two_mul hnl
      have hhalf : nl / s / 2 = 2 ^ (f + 1) := by rw [hnl, two_pow_div_two (by omega), Nat.add_sub_cancel]
      have htchild : ∀ j, j < nl / (2 * s) / 2 → u.read j = t.read j := fun j hj => ht j (by omega)
      rw [nttSub_of_fork c t d nl (f + 1) o s hz, nttSub_of_fork c u e nl (f + 1) o s hz, hhalf]
      rw [hhalf] at ht
      have heven := (ih hchild htchild fun i hi => hde i hi.of_even_child).widen hde
        (fun _ => nttSub_sameOutside hchild) (fun _ => nttSub_sameOutside hchild)
      refine heven.bind fun d₁ e₁ _ _ hde₁ => ?_
      have hodd := (ih hchild htchild fun i hi => hde₁ i hi.of_odd_child).widen hde₁
        (fun _ => nttSub_sameOutside hchild) (fun _ => nttSub_sameOutside hchild)
      exact hodd.bind fun d₂ e₂ _ _ => combineLoop_sameOn ht (Nat.zero_add _).le

end

/-- Settles O34: a butterfly of the sub-problem pairs two of its elements; the elements of the children have different
parity. -/
theorem subTransformFootprint : Obligations.SubTransformFootprint := by
  refine ⟨?_, ?_, ?_⟩
  · intro c t d d' nl f o s hnl h i hi
    refine nttSub_sameOutside hnl h i ?_
    rintro ⟨k, hk, heq⟩
    exact hi k (hnl ▸ hk) heq
  · intro c t u d e nl f o s hnl ht hde
    have hsame := nttSub_sameOn (c := c) (d := d) (e := e) hnl ht fun i ⟨k, hk, heq⟩ => heq ▸ hde k (hnl ▸ hk)
    cases hx : nttSub c t nl f o s d <;> cases hy : nttSub c u nl f o s e <;> rw [hx, hy] at hsame <;> cases hsame
    · rfl
    · rename_i hwords
      exact fun k hk => hwords _ ⟨k, hnl ▸ hk, rfl⟩
  · intro o s k k' hs
    rw [even_element, odd_element, Ne, element_inj hs]
    omega

end Sys2Proof.Machine
end

section
/-! The atomic commands as one result of one loop: two runs that differ above `D[0..n)` (R31), and two configurations
that differ in `MIN_CONCURRENT_SIZE` and `LANES` (R184). -/

namespace Sys2Proof.Machine

/-- The outcome of a command whose body has been run: a refusal in it refuses the command. -/
def outcomeOf : Except Refusal State → Host.Outcome State Fault Refusal
  | .ok t => .next t
  | .error r => .refused r

theorem command_of_latch {i : Instr} {body : Run → State → Except Refusal State} {s : State} {r : Run}
    (hm : s.status.mode = .idle) (hc : checkLength s.cfg i s.len s.twlen = none) (hr : latch i s = .ok r) :
    command i body s = outcomeOf (body r (beginRun r s)) := by
  simp only [command, hm, hc, hr]
  cases body r (beginRun r s) <;> rfl

section
variable (g : Nat) (s : State)

theorem nttBody_startRun : nttBody (startRun .ntt g s) (beginRun (startRun .ntt g s) s) =
    (nttSub s.cfg s.tmem s.len.toNat (logLength s.len.toNat) 0 1 s.dmem).map (doneWithData s) := by
  rw [nttBody, startRun_nl, beginRun_cfg, beginRun_tmem, beginRun_dmem]
  cases nttSub s.cfg s.tmem s.len.toNat (logLength s.len.toNat) 0 1 s.dmem <;> rfl

theorem bitrevBody_startRun : bitrevBody (startRun .bitrev g s) (beginRun (startRun .bitrev g s) s) =
    (permuteLoop .dmem (logLength s.len.toNat) s.len.toNat 0 s.dmem).map (doneWithData s) := by
  rw [bitrevBody, startRun_nl, beginRun_dmem]
  cases permuteLoop .dmem (logLength s.len.toNat) s.len.toNat 0 s.dmem <;> rfl

theorem buildTwBody_startRun : buildTwBody (startRun .buildTw g s) (beginRun (startRun .buildTw g s) s) =
    (permuteLoop .tmem (logLength s.len.toNat - 1) (halfLength s.len.toNat) 0
      (pser s.cfg g (halfLength s.len.toNat) s.tmem)).map (doneWithTable s) := by
  rw [buildTwBody, startRun_nl, startRun_gen, beginRun_tmem, beginRun_cfg]
  cases permuteLoop .tmem (logLength s.len.toNat - 1) (halfLength s.len.toNat) 0
    (pser s.cfg g (halfLength s.len.toNat) s.tmem) <;> rfl

end

/-! ### Two runs that differ above the sequence -/

theorem element_zero_one {n i : Nat} : Element 0 1 n i ↔ i < n := by
  simp [Element]

theorem firstMissing_congr {m m' : Memory} {n : Nat} (h : ∀ k, k < n → m'.read k = m.read k) :
    m'.firstMissing n 0 = m.firstMissing n 0 := by
  cases hfirst : m.firstMissing n 0 with
  | none =>
    rw [firstMissing_eq_none] at hfirst ⊢
    exact fun j hj hjn => by rw [h j (by omega)]; exact hfirst j hj hjn
  | some k =>
    obtain ⟨-, hk, hnone, hbelow⟩ := firstMissing_eq_some hfirst
    refine firstMissing_eq_some_of (by omega) (by rw [h k (by omega), hnone]) fun l hl => ?_
    rw [h l (by omega)]
    exact hbelow l (Nat.zero_le l) hl

/-- Two outcomes as R31 asks: the same `STATUS` and the same words below `n`, each run keeping its own words from `n`
on, or the same refusal. -/
inductive SameBelow (n : Nat) (d d' : Memory) :
    Host.Outcome State Fault Refusal → Host.Outcome State Fault Refusal → Prop where
  | next {t t' : State} : t'.status = t.status → (∀ k, k < n → t'.dmem.read k = t.dmem.read k) →
      Memory.SameFrom n d t.dmem → Memory.SameFrom n d' t'.dmem → SameBelow n d d' (.next t) (.next t')
  | refused (r : Refusal) : SameBelow n d d' (.refused r) (.refused r)

/-- Two results of a loop on `DMEM` that are alike below `n` make two such outcomes. -/
theorem sameBelow_of_sameOn {n : Nat} {s s' : State} {x y : Except Refusal Memory} (hst : s'.status = s.status)
    (h : SameOn (Element 0 1 n) x y) (hx : ∀ d, x = .ok d → Memory.SameFrom n s.dmem d)
    (hy : ∀ d, y = .ok d → Memory.SameFrom n s'.dmem d) :
    SameBelow n s.dmem s'.dmem (outcomeOf (x.map (doneWithData s))) (outcomeOf (y.map (doneWithData s'))) := by
  cases h with
  | error r => exact .refused r
  | ok hsame =>
    exact .next (congrArg Status.retired hst) (fun k hk => hsame k (element_zero_one.mpr hk)) (hx _ rfl) (hy _ rfl)

theorem permuteLoop_sameOn {m : Nat} {x : Nat → Nat} {d e : Memory} (hd : d.Holds (2 ^ m) x) (he : e.Holds (2 ^ m) x) :
    ∃ d' e', permuteLoop .dmem m (2 ^ m) 0 d = .ok d' ∧ permuteLoop .dmem m (2 ^ m) 0 e = .ok e' ∧
      SameOn (Element 0 1 (2 ^ m)) (.ok d') (.ok e') ∧ Memory.SameFrom (2 ^ m) d d' ∧ Memory.SameFrom (2 ^ m) e e' := by
  obtain ⟨d', hloop, hholds, hframe⟩ := permuteLoop_of_holds .dmem hd
  obtain ⟨e', hloop', hholds', hframe'⟩ := permuteLoop_of_holds .dmem he
  refine ⟨d', e', hloop, hloop', .ok fun i hi => ?_, hframe, hframe'⟩
  have hlt := element_zero_one.mp hi
  rw [hholds i hlt, hholds' i hlt]

theorem holds_of_firstMissing {m : Memory} {n : Nat} (h : m.firstMissing n 0 = none) :
    m.Holds n (fun k => (m.read k).getD 0) := by
  intro k hk
  obtain ⟨v, hv⟩ := Option.isSome_iff_exists.mp ((firstMissing_eq_none m n 0).mp h k (Nat.zero_le k) (by omega))
  simp [hv]

/-- The range of a command on `DMEM` begins with `D[0..n)`. -/
theorem dmem_firstMissing {s : State} {i : Instr} (hi : i = .ntt ∨ i = .bitrev) (h : missingWord i s = none) :
    s.dmem.firstMissing s.len.toNat 0 = none := by
  cases hfirst : s.dmem.firstMissing s.len.toNat 0 with
  | none => rfl
  | some k => obtain rfl | rfl := hi <;> simp [missingWord, hfirst] at h

section
variable {s : State} {m : Nat} {d : Memory} (hready : Ready s m) (hd : ∀ k, k < 2 ^ m → d.read k = s.dmem.read k)
include hready hd

/-- Up to its body a command on `DMEM` looks at the words of `D[0..n)` alone. -/
theorem command_sameBelow {i : Instr} {body : Run → State → Except Refusal State}
    (hmiss : missingWord i { s with dmem := d } = missingWord i s) (hgen : startGenerator s.cfg i s.len = .ok 0)
    (hbody : missingWord i s = none → SameBelow (2 ^ m) s.dmem d
      (outcomeOf (body (startRun i 0 s) (beginRun (startRun i 0 s) s)))
      (outcomeOf (body (startRun i 0 { s with dmem := d })
        (beginRun (startRun i 0 { s with dmem := d }) { s with dmem := d })))) :
    SameBelow (2 ^ m) s.dmem d (command i body s) (command i body { s with dmem := d }) := by
  have hm : { s with dmem := d }.status.mode = .idle := hready.idle
  cases hc : checkLength s.cfg i s.len s.twlen with
  | some code =>
    rw [command_faults hready.idle hc, command_faults hm hc]
    exact .next rfl hd (fun _ _ => rfl) (fun _ _ => rfl)
  | none =>
    cases hmissing : missingWord i s with
    | some r =>
      rw [command_of_missing hready.idle hc hmissing, command_of_missing hm hc (hmiss.trans hmissing)]
      exact .refused r
    | none =>
      have hlatch : latch i s = .ok (startRun i 0 s) := by rw [latch, hmissing, hgen]
      have hlatch' : latch i { s with dmem := d } = .ok (startRun i 0 s) := by
        rw [latch, hmiss, hmissing, hgen]
        rfl
      rw [command_of_latch hready.idle hc hlatch, command_of_latch hm hc hlatch']
      exact hbody hmissing

theorem exec_ntt_sameBelow : SameBelow (2 ^ m) s.dmem d (exec .ntt s) (exec .ntt { s with dmem := d }) := by
  refine command_sameBelow hready hd ?_ rfl fun _ => ?_
  · simp only [missingWord, hready.len, firstMissing_congr hd]
  · rw [nttBody_startRun 0 s, nttBody_startRun 0 { s with dmem := d }, hready.len, logLength_two_pow]
    have hsize : 2 ^ m / 1 = 2 ^ m := Nat.div_one _
    exact sameBelow_of_sameOn (s' := { s with dmem := d }) rfl
      (nttSub_sameOn hsize (fun _ _ => rfl) fun i hi => hd i (element_zero_one.mp hi))
      (fun e he => (nttSub_sameOutside hsize he).sameFrom) (fun e he => (nttSub_sameOutside hsize he).sameFrom)

theorem exec_bitrev_sameBelow : SameBelow (2 ^ m) s.dmem d (exec .bitrev s) (exec .bitrev { s with dmem := d }) := by
  refine command_sameBelow hready hd ?_ rfl fun hmissing => ?_
  · simp only [missingWord, hready.len, firstMissing_congr hd]
  · rw [bitrevBody_startRun 0 s, bitrevBody_startRun 0 { s with dmem := d }, hready.len, logLength_two_pow]
    have hx := holds_of_firstMissing (dmem_firstMissing (.inr rfl) hmissing)
    rw [hready.len] at hx
    obtain ⟨e, e', hloop, hloop', hsame, hframe, hframe'⟩ :=
      permuteLoop_sameOn hx fun k hk => (hd k hk).trans (hx k hk)
    rw [hloop, hloop']
    exact sameBelow_of_sameOn (s' := { s with dmem := d }) rfl hsame
      (fun _ he => Except.ok.inj he ▸ hframe) (fun _ he => Except.ok.inj he ▸ hframe')

end

/-- Settles O22: the checks and the latch read `LEN` and the words below `n`, and so do the two loops. -/
theorem commandsTouchOnlyTheirSequence : Obligations.CommandsTouchOnlyTheirSequence := by
  intro s m i d hready hi hd
  have hsame : SameBelow (2 ^ m) s.dmem d (exec i s) (exec i { s with dmem := d }) := by
    obtain rfl | rfl := hi
    · exact exec_ntt_sameBelow hready hd
    · exact exec_bitrev_sameBelow hready hd
  generalize exec i s = x at hsame ⊢
  generalize exec i { s with dmem := d } = y at hsame ⊢
  cases hsame with
  | next hst hwords hframe hframe' => exact ⟨hst, hwords, hframe, hframe'⟩
  | refused r => rfl

/-! ### Two configurations that differ in how much runs at once -/

/-- The state with other values of `MIN_CONCURRENT_SIZE` and `LANES`. -/
def withConcurrency (k l : Nat) (s : State) : State := { s with cfg := { s.cfg with mcs := k, lanes := l } }

/-- The outcome with its next state changed. -/
def mapNext (f : State → State) : Host.Outcome State Fault Refusal → Host.Outcome State Fault Refusal
  | .next t => .next (f t)
  | .fault r => .fault r
  | .refused r => .refused r

section
variable (c : Cfg) (k l : Nat)

theorem combineLoop_withConcurrency (t : Memory) (o s n j : Nat) (d : Memory) :
    combineLoop { c with mcs := k, lanes := l } t o s n j d = combineLoop c t o s n j d := by
  induction n generalizing j d with
  | zero => rfl
  | succ n ih =>
    have hrest := funext (ih (j + 1))
    rw [combineLoop_succ, combineLoop_succ, hrest]
    rfl

theorem nttSub_withConcurrency (t : Memory) (nl f o s : Nat) (d : Memory) :
    nttSub { c with mcs := k, lanes := l } t nl f o s d = nttSub c t nl f o s d := by
  induction f generalizing o s d with
  | zero => rfl
  | succ f ih =>
    obtain hz | hz | hz : nl / s ≤ 1 ∨ nl / s = 2 ∨ 2 < nl / s := by omega
    · rw [nttSub, nttSub, if_pos hz, if_pos hz]
    · rw [nttSub_of_size_two _ _ _ _ _ _ _ hz, nttSub_of_size_two _ _ _ _ _ _ _ hz]
      rfl
    · rw [nttSub_of_fork _ _ _ _ _ _ _ hz, nttSub_of_fork _ _ _ _ _ _ _ hz, ih]
      simp only [ih, funext (combineLoop_withConcurrency c k l t o s (nl / s / 2) 0)]

theorem pserLoop_withConcurrency (g n i acc : Nat) (t : Memory) :
    pserLoop { c with mcs := k, lanes := l } g n i acc t = pserLoop c g n i acc t := by
  induction n generalizing i acc t with
  | zero => rfl
  | succ n ih => exact ih _ _ _

end

section
variable (k l : Nat) (s : State)

theorem outcomeOf_map (f : State → State) (x : Except Refusal State) :
    outcomeOf (x.map f) = mapNext f (outcomeOf x) := by
  cases x <;> rfl

/-- A command whose run gives the same with the other parameters has the same outcome with them: no check and nothing
that is latched depends on them, but for the number of lane registers. -/
theorem command_withConcurrency {i : Instr} {body : Run → State → Except Refusal State}
    (hbody : ∀ g, body (startRun i g (withConcurrency k l s)) (beginRun (startRun i g (withConcurrency k l s))
      (withConcurrency k l s)) = (body (startRun i g s) (beginRun (startRun i g s) s)).map (withConcurrency k l)) :
    command i body (withConcurrency k l s) = mapNext (withConcurrency k l) (command i body s) := by
  have hmode : (withConcurrency k l s).status.mode = s.status.mode := rfl
  have hcheck : checkLength (withConcurrency k l s).cfg i (withConcurrency k l s).len (withConcurrency k l s).twlen =
    checkLength s.cfg i s.len s.twlen := rfl
  have hmissing : missingWord i (withConcurrency k l s) = missingWord i s := rfl
  have hgen : startGenerator (withConcurrency k l s).cfg i (withConcurrency k l s).len =
    startGenerator s.cfg i s.len := rfl
  cases hm : s.status.mode with
  | busy =>
    simp only [command, hmode, hm]
    rfl
  | fault =>
    rw [command_of_fault hm, command_of_fault (hmode.trans hm)]
    rfl
  | idle =>
    cases hc : checkLength s.cfg i s.len s.twlen with
    | some code =>
      rw [command_faults hm hc, command_faults (hmode.trans hm) (hcheck.trans hc)]
      rfl
    | none =>
      cases hmiss : missingWord i s with
      | some r =>
        rw [command_of_missing hm hc hmiss,
          command_of_missing (hmode.trans hm) (hcheck.trans hc) (hmissing.trans hmiss)]
        rfl
      | none =>
        cases hg : startGenerator s.cfg i s.len with
        | error r =>
          simp only [command, hmode, hm, hcheck, hc, latch, hmissing, hmiss, hgen, hg]
          rfl
        | ok g =>
          have hlatch : latch i s = .ok (startRun i g s) := by rw [latch, hmiss, hg]
          have hlatch' : latch i (withConcurrency k l s) = .ok (startRun i g (withConcurrency k l s)) := by
            rw [latch, hmissing, hmiss, hgen, hg]
          rw [command_of_latch hm hc hlatch, command_of_latch (hmode.trans hm) (hcheck.trans hc) hlatch', hbody,
            outcomeOf_map]

theorem except_map_map {ε α β γ : Type} (x : Except ε α) (f : α → β) (g : β → γ) :
    (x.map f).map g = x.map (fun a => g (f a)) := by
  cases x <;> rfl

theorem exec_withConcurrency (i : Instr) :
    exec i (withConcurrency k l s) = mapNext (withConcurrency k l) (exec i s) := by
  cases i with
  | buildTw =>
    refine command_withConcurrency k l s fun g => ?_
    rw [buildTwBody_startRun, buildTwBody_startRun, except_map_map]
    exact congrArg (fun t => Except.map _ (permuteLoop .tmem _ _ 0 t)) (pserLoop_withConcurrency s.cfg k l g _ 0 1 _)
  | ntt =>
    refine command_withConcurrency k l s fun g => ?_
    rw [nttBody_startRun, nttBody_startRun, except_map_map]
    exact congrArg (Except.map _) (nttSub_withConcurrency s.cfg k l s.tmem _ _ 0 1 s.dmem)
  | bitrev =>
    refine command_withConcurrency k l s fun g => ?_
    rw [bitrevBody_startRun, bitrevBody_startRun, except_map_map]
    rfl
  | srst rsv =>
    change execSrst rsv _ = mapNext _ (execSrst rsv s)
    have hmode : (withConcurrency k l s).status.mode = s.status.mode := rfl
    cases hm : s.status.mode <;> simp only [execSrst, hmode, hm] <;> rfl

end

/-- Settles O31: of the construction parameters the commands read `P`, `S`, `ROOT` and `LOG_NMAX` alone. -/
theorem concurrencyParametersInvisible : Obligations.ConcurrencyParametersInvisible := by
  intro s i k l
  refine (exec_withConcurrency k l s i).trans ?_
  cases exec i s <;> rfl

end Sys2Proof.Machine
end

section
/-! The transform by stages (R175, R183): the value each index has after each of its butterflies, and how one butterfly
takes its pair from one stage to the next. -/

namespace Sys2Proof.Machine

/-! ### The pairs of a stage -/

/-- The lower index of the pair that `x` belongs to in the stage of stride `s` (R175). -/
def lowerIndex (s x : Nat) : Nat := if x / s % 2 = 0 then x else x - s

theorem writerBefore_eq (s x : Nat) : writerBefore s x = (2 * s, lowerIndex (2 * s) x) := rfl

section
variable {s p x : Nat}

theorem lowerIndex_of_even (h : x / s % 2 = 0) : lowerIndex s x = x := if_pos h

theorem lowerIndex_of_odd (h : x / s % 2 ≠ 0) : lowerIndex s x = x - s := if_neg h

theorem lowerIndex_even (s x : Nat) : lowerIndex s x / s % 2 = 0 := by
  by_cases hx : x / s % 2 = 0
  · rwa [lowerIndex_of_even hx]
  · have hdiv := Nat.sub_mul_div x s 1
    rw [Nat.mul_one] at hdiv
    rw [lowerIndex_of_odd hx, hdiv]
    omega

variable (hs : 0 < s)
include hs

theorem add_stride_div (p : Nat) : (p + s) / s = p / s + 1 := Nat.add_div_right p hs

/-- The pair of a lower index. -/
theorem lowerIndex_eq_iff (hp : p / s % 2 = 0) : lowerIndex s x = p ↔ x = p ∨ x = p + s := by
  have hupper := add_stride_div hs p
  by_cases hx : x / s % 2 = 0
  · rw [lowerIndex_of_even hx]
    refine ⟨.inl, ?_⟩
    rintro (rfl | rfl)
    · rfl
    · omega
  · rw [lowerIndex_of_odd hx]
    have hle : s ≤ x := by
      by_contra hlt
      rw [Nat.div_eq_of_lt (not_le.mp hlt)] at hx
      exact hx rfl
    refine ⟨fun h => .inr (by omega), ?_⟩
    rintro (rfl | rfl)
    · exact absurd hp hx
    · omega

theorem lowerIndex_add (hp : p / s % 2 = 0) : lowerIndex s (p + s) = p := (lowerIndex_eq_iff hs hp).mpr (.inr rfl)

end

theorem lowerIndex_le (s x : Nat) : lowerIndex s x ≤ x := by
  unfold lowerIndex
  split <;> omega

/-- The twiddle index of a pair is within the table. -/
theorem twiddle_lt {m s p : Nat} (hm : 1 ≤ m) (hp : p < 2 ^ m) (hs : 0 < s) : p / (2 * s) < 2 ^ (m - 1) := by
  rw [← two_pow_div_two hm, Nat.div_lt_iff_lt_mul (by omega)]
  have hdvd : 2 ^ m / 2 * 2 = 2 ^ m := Nat.div_mul_cancel (dvd_pow_self 2 (by omega))
  calc p < 2 ^ m / 2 * 2 := by omega
    _ ≤ 2 ^ m / 2 * (2 * s) := Nat.mul_le_mul_left _ (by omega)

/-- The stride of stage `k` of a transform of size `2^m`, counted from 0. -/
def stride (m k : Nat) : Nat := 2 ^ (m - 1 - k)

theorem stride_pos (m k : Nat) : 0 < stride m k := Nat.two_pow_pos _

theorem stride_succ {m k : Nat} (hk : k + 1 < m) : 2 * stride m (k + 1) = stride m k := by
  rw [stride, stride, ← Nat.pow_succ']
  congr 1
  omega

/-- A pair lies within the sequence with its lower index. -/
theorem add_stride_lt {m k p : Nat} (hk : k < m) (hp : p < 2 ^ m) (heven : p / stride m k % 2 = 0) :
    p + stride m k < 2 ^ m := by
  have hsize : 2 ^ m = 2 * 2 ^ k * stride m k := by
    rw [stride, ← Nat.pow_succ', ← Nat.pow_add]
    congr 1
    omega
  rw [hsize, ← Nat.div_lt_iff_lt_mul (stride_pos m k)] at hp ⊢
  rw [add_stride_div (stride_pos m k)]
  omega

/-! ### The values after each stage -/

/-- What index `x` holds after `k` stages, when the sequence was `a` and the table holds `b` (R175, R171). -/
def stageValue (c : Cfg) (b : Nat → Nat) (m : Nat) (a : Nat → Nat) : Nat → Nat → Nat
  | 0, x => a x
  | k + 1, x =>
    if x / stride m k % 2 = 0 then
      fadd c (stageValue c b m a k x)
        (fmul c (b (x / (2 * stride m k))) (stageValue c b m a k (x + stride m k)))
    else
      fsub c (stageValue c b m a k (x - stride m k))
        (fmul c (b ((x - stride m k) / (2 * stride m k))) (stageValue c b m a k x))

section
variable (c : Cfg) (b : Nat → Nat) (m : Nat) (a : Nat → Nat)

theorem stageValue_succ_lower {k p : Nat} (hp : p / stride m k % 2 = 0) :
    stageValue c b m a (k + 1) p = fadd c (stageValue c b m a k p)
      (fmul c (b (p / (2 * stride m k))) (stageValue c b m a k (p + stride m k))) := by
  rw [stageValue, if_pos hp]

theorem stageValue_succ_upper {k p : Nat} (hp : p / stride m k % 2 = 0) :
    stageValue c b m a (k + 1) (p + stride m k) = fsub c (stageValue c b m a k p)
      (fmul c (b (p / (2 * stride m k))) (stageValue c b m a k (p + stride m k))) := by
  have hodd : ¬ (p + stride m k) / stride m k % 2 = 0 := by
    rw [add_stride_div (stride_pos m k)]
    omega
  rw [stageValue, if_neg hodd, Nat.add_sub_cancel]

theorem stageValue_lt (hp : 0 < c.p) (ha : ∀ x, x < 2 ^ m → a x < c.p) (k : Nat) {x : Nat} (hx : x < 2 ^ m) :
    stageValue c b m a k x < c.p := by
  cases k with
  | zero => exact ha x hx
  | succ k =>
    rw [stageValue]
    split
    · exact fadd_lt hp _ _
    · exact fsub_lt hp _ _

end

/-! ### Memories midway through the stages -/

/-- `d` holds in each index `x` of the sequence its value after `L x` stages, and above the sequence what `d₀` holds. -/
structure AtStages (c : Cfg) (b : Nat → Nat) (m : Nat) (a : Nat → Nat) (d₀ : Memory) (L : Nat → Nat) (d : Memory) :
    Prop where
  words : ∀ x, x < 2 ^ m → d.read x = some (stageValue c b m a (L x) x)
  form : d.wf
  frame : Memory.SameFrom (2 ^ m) d₀ d

section
variable {c : Cfg} {b a : Nat → Nat} {m : Nat} {d₀ d d' : Memory} {L L' : Nat → Nat}

theorem AtStages.congr (h : AtStages c b m a d₀ L d) (hL : ∀ x, x < 2 ^ m → L' x = L x) :
    AtStages c b m a d₀ L' d :=
  ⟨fun x hx => by rw [hL x hx]; exact h.words x hx, h.form, h.frame⟩

/-- How many stages each index has had determines the memory. -/
theorem AtStages.unique (h : AtStages c b m a d₀ L d) (h' : AtStages c b m a d₀ L d') : d = d' := by
  refine memory_ext h.form h'.form fun x => ?_
  obtain hx | hx := Nat.lt_or_ge x (2 ^ m)
  · rw [h.words x hx, h'.words x hx]
  · rw [h.frame x hx, h'.frame x hx]

theorem atStages_start (hform : d.wf) (hd : d.Holds (2 ^ m) a) : AtStages c b m a d (fun _ => 0) d :=
  ⟨hd, hform, fun _ _ => rfl⟩

/-- What the transform is given: canonical words, and a table of canonical words that begins with 1. -/
structure Inputs (c : Cfg) (t : Memory) (b : Nat → Nat) (m : Nat) (a : Nat → Nat) : Prop where
  one_lt : 1 < c.p
  one_le : 1 ≤ m
  words : ∀ x, x < 2 ^ m → a x < c.p
  holds : t.Holds (2 ^ (m - 1)) b
  table : ∀ j, j < 2 ^ (m - 1) → b j < c.p
  table_zero : b 0 = 1

/-- A butterfly whose two indices have both had `k` stages gives them their next one (R183(d)). -/
theorem AtStages.bfly {t : Memory} (hin : Inputs c t b m a) (h : AtStages c b m a d₀ L d) {k p : Nat} (hk : k < m)
    (hp : p < 2 ^ m) (heven : p / stride m k % 2 = 0) (hlower : L p = k) (hupper : L (p + stride m k) = k) :
    ∃ lane, bflyLoad c t p (p + stride m k) (p / (2 * stride m k)) d = .ok lane ∧
      AtStages c b m a d₀ (fun x => if lowerIndex (stride m k) x = p then k + 1 else L x)
        (bflyStore c lane p (p + stride m k) d) := by
  have hpos := stride_pos m k
  have hq := add_stride_lt hk hp heven
  have hlt : ∀ {x}, x < 2 ^ m → stageValue c b m a k x < c.p := fun hx =>
    stageValue_lt c b m a (Nat.zero_lt_of_lt hin.one_lt) hin.words k hx
  have htw := twiddle_lt hin.one_le hp hpos
  have hne : p ≠ p + stride m k := by omega
  have hev : d.read p = some (stageValue c b m a k p) := by rw [h.words p hp, hlower]
  have hod : d.read (p + stride m k) = some (stageValue c b m a k (p + stride m k)) := by rw [h.words _ hq, hupper]
  have hload : bflyLoad c t p (p + stride m k) (p / (2 * stride m k)) d =
      .ok ⟨_, _, _, fmul c (b (p / (2 * stride m k))) (stageValue c b m a k (p + stride m k))⟩ := bflyLoad_eq_ok.mpr
    ⟨⟨hev, hlt hp⟩, ⟨hod, hlt hq⟩, ⟨hin.holds _ htw, hin.table _ htw⟩, rfl⟩
  refine ⟨_, hload, fun x hx => ?_, (wf_keptByEngine c.p).of_bflyLoad h.form hload, h.frame.trans fun x hx => ?_⟩
  · have hpair := lowerIndex_eq_iff (x := x) hpos heven
    rw [read_bflyStore _ _ hne]
    by_cases hxp : x = p
    · rw [if_pos hxp, if_pos (hpair.mpr (.inl hxp)), hxp, stageValue_succ_lower c b m a heven]
    · by_cases hxq : x = p + stride m k
      · rw [if_neg hxp, if_pos hxq, if_pos (hpair.mpr (.inr hxq)), hxq, stageValue_succ_upper c b m a heven]
      · rw [if_neg hxp, if_neg hxq, if_neg (mt hpair.mp (not_or.mpr ⟨hxp, hxq⟩)), h.words x hx]
  · exact read_bflyStore_of_ne (by omega) (by omega)

/-! ### The stage form -/

/-- The stages that `x` has had when stage `k` has done the positions below `p`. -/
def passLevel (m k p x : Nat) : Nat := if lowerIndex (stride m k) x < p then k + 1 else k

theorem passLevel_succ_of_lower {k p x : Nat} :
    (if lowerIndex (stride m k) x = p then k + 1 else passLevel m k p x) = passLevel m k (p + 1) x := by
  unfold passLevel
  split_ifs <;> omega

theorem passLevel_succ_of_not_lower {k p : Nat} (hodd : p / stride m k % 2 ≠ 0) (x : Nat) :
    passLevel m k (p + 1) x = passLevel m k p x := by
  have hne : lowerIndex (stride m k) x ≠ p := by
    rintro rfl
    exact hodd (lowerIndex_even _ _)
  unfold passLevel
  split_ifs <;> omega

/-- Entered at position `p`, one stage completes and gives every index its next stage. -/
theorem stagePass_of_passLevel {t : Memory} (hin : Inputs c t b m a) {k : Nat} (hk : k < m) {n p : Nat}
    (hnp : p + n = 2 ^ m) (h : AtStages c b m a d₀ (passLevel m k p) d) :
    ∃ d', stagePass c t (stride m k) n p d = .ok d' ∧ AtStages c b m a d₀ (fun _ => k + 1) d' := by
  induction n generalizing p d with
  | zero =>
    refine ⟨d, rfl, h.congr fun x hx => ?_⟩
    have hlow := lowerIndex_le (stride m k) x
    rw [passLevel, if_pos (by omega)]
  | succ n ih =>
    rw [stagePass]
    split
    · rename_i heven
      have hlower : passLevel m k p p = k := by
        rw [passLevel, lowerIndex_of_even heven, if_neg (lt_irrefl p)]
      have hupper : passLevel m k p (p + stride m k) = k := by
        rw [passLevel, lowerIndex_add (stride_pos m k) heven, if_neg (lt_irrefl p)]
      obtain ⟨lane, hload, h₁⟩ := h.bfly hin hk (by omega) heven hlower hupper
      rw [bfly_of_load hload]
      exact ih (by omega) (h₁.congr fun x _ => passLevel_succ_of_lower.symm)
    · rename_i hodd
      exact ih (by omega) (h.congr fun x _ => passLevel_succ_of_not_lower hodd x)

/-- The stages from stage `k` on complete and give every index all of its butterflies. -/
theorem nttStages_of_atStages {t : Memory} (hin : Inputs c t b m a) {f k : Nat} (hkf : k + f = m)
    (h : AtStages c b m a d₀ (fun _ => k) d) :
    ∃ d', nttStages c t (2 ^ m) f (stride m k) d = .ok d' ∧ AtStages c b m a d₀ (fun _ => m) d' := by
  induction f generalizing k d with
  | zero =>
    obtain rfl : k = m := hkf
    exact ⟨d, rfl, h⟩
  | succ f ih =>
    have hstart : AtStages c b m a d₀ (passLevel m k 0) d := h.congr fun x _ => if_neg (Nat.not_lt_zero _)
    obtain ⟨d₁, hpass, h₁⟩ := stagePass_of_passLevel hin (by omega) (Nat.zero_add _) hstart
    rw [nttStages, hpass]
    cases f with
    | zero => exact ih (by omega) h₁
    | succ f =>
      have hhalf : stride m k / 2 = stride m (k + 1) := by
        rw [← stride_succ (by omega), Nat.mul_div_cancel_left _ two_pos]
      change ∃ d', nttStages c t (2 ^ m) (f + 1) (stride m k / 2) d₁ = .ok d' ∧ _
      rw [hhalf]
      exact ih (by omega) h₁

end

/-! ### The recursive form -/

/-- The lower index of a pair keeps the residue of `x` and the number of the pair. -/
theorem lowerIndex_eq_add (s x : Nat) : lowerIndex s x = x % s + 2 * (x / (2 * s)) * s := by
  have hx := Nat.mod_add_div x s
  have hdiv : x / (2 * s) = x / s / 2 := by rw [Nat.mul_comm, Nat.div_div_eq_div_mul]
  obtain hpar | hpar := Nat.mod_two_eq_zero_or_one (x / s)
  · have hq : 2 * (x / s / 2) = x / s := by omega
    rw [lowerIndex_of_even hpar, hdiv, hq, Nat.mul_comm (x / s), hx]
  · have hq : x / s = 2 * (x / s / 2) + 1 := by omega
    rw [lowerIndex_of_odd (by omega), hdiv]
    rw [hq, Nat.mul_add, Nat.mul_one] at hx
    rw [Nat.mul_comm _ s]
    omega

section
variable {o s x j : Nat} (ho : o < s)
include ho

theorem element_mod (e : Nat) : (o + e * s) % s = o := by
  rw [Nat.add_mul_mod_self_right, Nat.mod_eq_of_lt ho]

theorem element_div (e : Nat) : (o + e * s) / s = e := by
  rw [Nat.add_mul_div_right _ _ (by omega), Nat.div_eq_of_lt ho, Nat.zero_add]

theorem eq_of_element_eq {o' e e' : Nat} (ho' : o' < s) (h : o + e * s = o' + e' * s) : o = o' ∧ e = e' := by
  constructor
  · rw [← element_mod ho e, h, element_mod ho']
  · rw [← element_div ho e, h, element_div ho']

/-- The pair of butterfly `j` of the combine loop of `(o, s)` (R173). -/
theorem lowerIndex_eq_element_iff : lowerIndex s x = o + 2 * j * s ↔ x % s = o ∧ x / (2 * s) = j := by
  rw [lowerIndex_eq_add]
  refine ⟨fun h => ?_, fun ⟨hmod, hdiv⟩ => by rw [hmod, hdiv]⟩
  obtain ⟨hmod, hdiv⟩ := eq_of_element_eq (Nat.mod_lt x (by omega)) ho h
  exact ⟨hmod, by omega⟩

theorem butterfly_index : (o + 2 * j * s) / s % 2 = 0 ∧ (o + 2 * j * s) % s = o ∧ (o + 2 * j * s) / (2 * s) = j := by
  have hdiv := element_div ho (2 * j)
  refine ⟨by omega, element_mod ho _, ?_⟩
  rw [Nat.mul_comm 2 s, ← Nat.div_div_eq_div_mul, hdiv, Nat.mul_div_cancel_left _ two_pos]

theorem butterfly_upper_index :
    (o + 2 * j * s + s) % s = o ∧ (o + 2 * j * s + s) / (2 * s) = j := by
  have helement : o + 2 * j * s + s = o + (2 * j + 1) * s := by ring
  have hdiv := element_div ho (2 * j + 1)
  rw [helement]
  refine ⟨element_mod ho _, ?_⟩
  rw [Nat.mul_comm 2 s, ← Nat.div_div_eq_div_mul, hdiv]
  omega

/-- The residues of the two children of `(o, s)`. -/
theorem mod_two_mul_iff : x % s = o ↔ x % (2 * s) = o ∨ x % (2 * s) = o + s := by
  have hmod : x % (2 * s) = x % s + s * (x / s % 2) := by rw [Nat.mul_comm, Nat.mod_mul]
  have hlt : x % s < s := Nat.mod_lt x (by omega)
  rw [hmod]
  obtain hpar | hpar := Nat.mod_two_eq_zero_or_one (x / s) <;> rw [hpar] <;> omega

end

/-- The stages that `x` has had when the sub-problem `(o, s)` has had `f` and the rest `L`. -/
def subLevel (o s f : Nat) (L : Nat → Nat) (x : Nat) : Nat := if x % s = o then f else L x

/-- The same while the combine loop of `(o, s)`, which gives its elements stage `f`, has done the butterflies below
`j`. -/
def combineLevel (o s f j : Nat) (L : Nat → Nat) (x : Nat) : Nat :=
  if x % s = o then (if x / (2 * s) < j then f + 1 else f) else L x

theorem combineLevel_zero (o s f : Nat) (L : Nat → Nat) : combineLevel o s f 0 L = subLevel o s f L := by
  funext x
  simp only [combineLevel, subLevel, if_neg (Nat.not_lt_zero _)]

/-- Once its children have had `f` stages, so has the parent. -/
theorem subLevel_children {o s : Nat} (ho : o < s) (f : Nat) (L : Nat → Nat) :
    subLevel (o + s) (2 * s) f (subLevel o (2 * s) f L) = subLevel o s f L := by
  funext x
  have hiff := mod_two_mul_iff (x := x) ho
  simp only [subLevel]
  by_cases hx : x % s = o
  · rw [if_pos hx]
    obtain heven | hodd := hiff.mp hx
    · rw [if_pos heven, ite_self]
    · rw [if_pos hodd]
  · obtain ⟨heven, hodd⟩ := not_or.mp (mt hiff.mpr hx)
    rw [if_neg hx, if_neg heven, if_neg hodd]

theorem size_mul_stride {m f : Nat} (hf : f < m) : 2 ^ (f + 1) * stride m f = 2 ^ m := by
  rw [stride, ← Nat.pow_add]
  congr 1
  omega

/-- A sub-problem of size `2^(f+1)` has `2^f` pairs. -/
theorem pair_lt {m f x : Nat} (hf : f < m) (hx : x < 2 ^ m) : x / (2 * stride m f) < 2 ^ f := by
  have hpos := stride_pos m f
  rwa [Nat.div_lt_iff_lt_mul (by omega), ← Nat.mul_assoc, ← Nat.pow_succ, size_mul_stride hf]

section
variable {c : Cfg} {t : Memory} {b a : Nat → Nat} {m : Nat} {d₀ d : Memory} {L : Nat → Nat} (hin : Inputs c t b m a)
  {f o : Nat} (hf : f < m) (ho : o < stride m f)
include hin hf ho

/-- One butterfly of the combine loop gives one more pair its next stage. -/
theorem AtStages.combine_bfly {j : Nat} (hj : j < 2 ^ f)
    (h : AtStages c b m a d₀ (combineLevel o (stride m f) f j L) d) :
    ∃ lane, bflyLoad c t (o + 2 * j * stride m f) (o + 2 * j * stride m f + stride m f) j d = .ok lane ∧
      AtStages c b m a d₀ (combineLevel o (stride m f) f (j + 1) L)
        (bflyStore c lane (o + 2 * j * stride m f) (o + 2 * j * stride m f + stride m f) d) := by
  obtain ⟨heven, hmod, hdiv⟩ := butterfly_index (j := j) ho
  obtain ⟨hmod', hdiv'⟩ := butterfly_upper_index (j := j) ho
  have hp : o + 2 * j * stride m f < 2 ^ m := by
    rw [← size_mul_stride hf, ← Nat.div_lt_iff_lt_mul (stride_pos m f), element_div ho, Nat.pow_succ]
    omega
  have hlevel : ∀ x, x % stride m f = o → x / (2 * stride m f) = j → combineLevel o (stride m f) f j L x = f :=
    fun x hx hxj => by rw [combineLevel, if_pos hx, hxj, if_neg (lt_irrefl j)]
  obtain ⟨lane, hload, h'⟩ := h.bfly hin hf hp heven (hlevel _ hmod hdiv) (hlevel _ hmod' hdiv')
  rw [hdiv] at hload
  refine ⟨lane, hload, h'.congr fun x _ => ?_⟩
  simp only [lowerIndex_eq_element_iff ho, combineLevel]
  split_ifs <;> omega

theorem AtStages.combineLoop {k j : Nat} (hjk : j + k = 2 ^ f)
    (h : AtStages c b m a d₀ (combineLevel o (stride m f) f j L) d) :
    ∃ d', combineLoop c t o (stride m f) k j d = .ok d' ∧
      AtStages c b m a d₀ (subLevel o (stride m f) (f + 1) L) d' := by
  induction k generalizing j d with
  | zero =>
    obtain rfl : j = 2 ^ f := hjk
    refine ⟨d, rfl, h.congr fun x hx => ?_⟩
    simp only [subLevel, combineLevel, if_pos (pair_lt hf hx)]
  | succ k ih =>
    obtain ⟨lane, hload, h₁⟩ := h.combine_bfly hin hf ho (by omega)
    rw [combineLoop_succ, bfly_of_load hload]
    exact ih (by omega) h₁

end

/-- `NTT_SUB(o, s)` completes and gives its elements their stages: the children by induction, its own by the combine
loop. -/
theorem AtStages.nttSub {c : Cfg} {t : Memory} {b a : Nat → Nat} {m : Nat} {d₀ d : Memory} {L : Nat → Nat}
    (hin : Inputs c t b m a) {f o : Nat} (hf : f ≤ m) (ho : o < 2 ^ (m - f)) (h : AtStages c b m a d₀ L d)
    (hL : ∀ x, x < 2 ^ m → x % 2 ^ (m - f) = o → L x = 0) :
    ∃ d', nttSub c t (2 ^ m) f o (2 ^ (m - f)) d = .ok d' ∧ AtStages c b m a d₀ (subLevel o (2 ^ (m - f)) f L) d' := by
  induction f generalizing o L d with
  | zero =>
    refine ⟨d, rfl, h.congr fun x hx => ?_⟩
    rw [subLevel]
    split
    · rename_i hxo
      exact (hL x hx hxo).symm
    · rfl
  | succ f ih =>
    have hfm : f < m := hf
    have hstride : 2 ^ (m - (f + 1)) = stride m f := by rw [stride, Nat.sub_sub, Nat.add_comm]
    have hdouble : 2 ^ (m - f) = 2 * stride m f := by
      rw [stride, ← Nat.pow_succ']
      congr 1
      omega
    have hdiv : 2 ^ m / stride m f = 2 ^ (f + 1) := by
      rw [← size_mul_stride hfm, Nat.mul_div_cancel _ (stride_pos m f)]
    rw [hstride] at ho hL ⊢
    rw [hdouble] at ih
    have hmod : ∀ x, x % (2 * stride m f) = o ∨ x % (2 * stride m f) = o + stride m f → x % stride m f = o :=
      fun x => (mod_two_mul_iff ho).mpr
    obtain ⟨d₁, heven, h₁⟩ := ih (by omega) (by omega) h fun x hx hxo => hL x hx (hmod x (.inl hxo))
    obtain ⟨d₂, hodd, h₂⟩ := ih (o := o + stride m f) (by omega) (by omega) h₁ fun x hx hxo => by
      rw [subLevel, if_neg (by omega)]
      exact hL x hx (hmod x (.inr hxo))
    rw [subLevel_children ho, ← combineLevel_zero] at h₂
    obtain ⟨d', hloop, h'⟩ := h₂.combineLoop hin hfm ho (Nat.zero_add _)
    have hone : t.read 0 = some 1 := by rw [hin.holds 0 (Nat.two_pow_pos _), hin.table_zero]
    exact ⟨d', nttSub_succ hin.one_lt hone hdiv heven hodd hloop, h'⟩

/-- `NTT_SUB(0, 1)` gives every index all of its stages. -/
theorem nttSub_atStages {c : Cfg} {t : Memory} {b a : Nat → Nat} {m : Nat} {d : Memory} (hin : Inputs c t b m a)
    (hform : d.wf) (hd : d.Holds (2 ^ m) a) :
    ∃ d', nttSub c t (2 ^ m) m 0 1 d = .ok d' ∧ AtStages c b m a d (fun _ => m) d' := by
  have hsize : 2 ^ (m - m) = 1 := by rw [Nat.sub_self, pow_zero]
  obtain ⟨d', hsub, h⟩ := (atStages_start hform hd).nttSub hin le_rfl (o := 0) (by omega) fun _ _ _ => rfl
  rw [hsize] at hsub h
  refine ⟨d', hsub, h.congr fun x _ => ?_⟩
  rw [subLevel, if_pos (Nat.mod_one x)]

/-- Settles O32: both forms give every index all of its stages, which determines the memory. -/
theorem stageFormEqualsRecursiveForm : Obligations.StageFormEqualsRecursiveForm := by
  intro c t d m a b hp hm hform hd ha ht hb hb0
  have hin : Inputs c t b m a := ⟨hp, hm, ha, ht, hb, hb0⟩
  have hstride : 2 ^ m / 2 = stride m 0 := two_pow_div_two hm
  obtain ⟨d₁, hstages, h₁⟩ := nttStages_of_atStages hin (Nat.zero_add m) (atStages_start hform hd)
  obtain ⟨d₂, hsub, h₂⟩ := nttSub_atStages hin hform hd
  rw [hstride, hstages, hsub, h₁.unique h₂]

end Sys2Proof.Machine
end

section
/-! Every order of the butterflies that respects the dependences (R183(d), R184, R187): those that are done are the first
stages of each index, so the memory is what those stages give, and once all are done it is the transform. -/

namespace Sys2Proof.Machine

/-! ### Butterflies and their stages -/

theorem isPow2_iff {n : Nat} : isPow2 n = true ↔ ∃ q, n = 2 ^ q := by
  refine ⟨fun h => ?_, fun ⟨q, hq⟩ => hq ▸ isPow2_two_pow q⟩
  by_contra hno
  rw [isPow2_of_ne_two_pow (not_exists.mp hno)] at h
  cases h

/-- A butterfly is a stage and the lower index of one of its pairs. -/
theorem isButterfly_iff {m : Nat} (hm : 1 ≤ m) {s p : Nat} :
    isButterfly (2 ^ m) (s, p) = true ↔ ∃ k, k < m ∧ s = stride m k ∧ p < 2 ^ m ∧ p / s % 2 = 0 := by
  simp only [isButterfly, Bool.and_eq_true, decide_eq_true_eq, isPow2_iff, two_pow_div_two hm]
  constructor
  · rintro ⟨⟨⟨⟨q, rfl⟩, hle⟩, hp⟩, heven⟩
    have hq : q ≤ m - 1 := (Nat.pow_le_pow_iff_right Nat.one_lt_two).mp hle
    refine ⟨m - 1 - q, by omega, ?_, hp, heven⟩
    rw [stride, Nat.sub_sub_self hq]
  · rintro ⟨k, hk, rfl, hp, heven⟩
    exact ⟨⟨⟨⟨_, rfl⟩, Nat.pow_le_pow_right two_pos (Nat.sub_le _ _)⟩, hp⟩, heven⟩

/-- The butterfly that gives index `x` its stage `k`. -/
def butterflyAt (m k x : Nat) : Nat × Nat := (stride m k, lowerIndex (stride m k) x)

theorem stride_inj {m k k' : Nat} (hk : k < m) (hk' : k' < m) (h : stride m k = stride m k') : k = k' := by
  have hexp : m - 1 - k = m - 1 - k' := Nat.pow_right_injective le_rfl h
  omega

theorem butterflyAt_eq_iff {m k k' p x : Nat} (hk : k < m) (hk' : k' < m) :
    butterflyAt m k' x = (stride m k, p) ↔ k' = k ∧ lowerIndex (stride m k) x = p := by
  rw [butterflyAt, Prod.mk.injEq]
  constructor
  · rintro ⟨hs, hlow⟩
    obtain rfl := stride_inj hk' hk hs
    exact ⟨rfl, hlow⟩
  · rintro ⟨rfl, hlow⟩
    exact ⟨rfl, hlow⟩

/-! ### What is done -/

/-- `L x` is how many stages index `x` has had: the butterflies done are exactly those, each of them once. -/
structure DoneStages (m : Nat) (done : List (Nat × Nat)) (L : Nat → Nat) : Prop where
  butterflies : ∀ y ∈ done, isButterfly (2 ^ m) y = true
  nodup : done.Nodup
  mem_iff : ∀ x, x < 2 ^ m → ∀ k, k < m → (butterflyAt m k x ∈ done ↔ k < L x)
  level_le : ∀ x, x < 2 ^ m → L x ≤ m

theorem doneStages_nil (m : Nat) : DoneStages m [] (fun _ => 0) :=
  ⟨by simp, List.nodup_nil, by simp, by simp⟩

section
variable {m : Nat} {done : List (Nat × Nat)} {L : Nat → Nat} (h : DoneStages m done L)
include h

/-- An index whose butterfly of stage `k` is not done, but the one before it is, has had `k` stages. -/
theorem DoneStages.level_eq {k x : Nat} (hk : k < m) (hx : x < 2 ^ m) (hnot : butterflyAt m k x ∉ done)
    (hbefore : k = 0 ∨ writerBefore (stride m k) x ∈ done) : L x = k := by
  have hle : L x ≤ k := not_lt.mp (mt (h.mem_iff x hx k hk).mpr hnot)
  obtain rfl | hmem := hbefore
  · omega
  · obtain _ | k := k
    · omega
    · rw [writerBefore_eq, stride_succ hk] at hmem
      have hlt : k < L x := (h.mem_iff x hx k (by omega)).mp hmem
      omega

/-- An enabled butterfly finds both of its indices one stage behind it. -/
theorem DoneStages.levels_of_enabled (hm : 1 ≤ m) {s p : Nat} (hen : enabledButterfly (2 ^ m) done (s, p) = true) :
    ∃ k, k < m ∧ s = stride m k ∧ p < 2 ^ m ∧ p / stride m k % 2 = 0 ∧ (s, p) ∉ done ∧ L p = k ∧
      L (p + stride m k) = k := by
  simp only [enabledButterfly, Bool.and_eq_true, Bool.or_eq_true, Bool.not_eq_true', decide_eq_true_eq,
    List.contains_eq_mem, decide_eq_false_iff_not] at hen
  obtain ⟨⟨hbutterfly, hnot⟩, hbefore⟩ := hen
  obtain ⟨k, hk, rfl, hp, heven⟩ := (isButterfly_iff hm).mp hbutterfly
  have hlower : butterflyAt m k p = (stride m k, p) := (butterflyAt_eq_iff hk hk).mpr ⟨rfl, lowerIndex_of_even heven⟩
  have hupper : butterflyAt m k (p + stride m k) = (stride m k, p) :=
    (butterflyAt_eq_iff hk hk).mpr ⟨rfl, lowerIndex_add (stride_pos m k) heven⟩
  have hfirst : stride m k = 2 ^ m / 2 → k = 0 := fun heq =>
    stride_inj hk hm (heq.trans (two_pow_div_two hm))
  refine ⟨k, hk, rfl, hp, heven, hnot, ?_, ?_⟩
  · exact h.level_eq hk hp (hlower ▸ hnot) (hbefore.imp hfirst And.left)
  · exact h.level_eq hk (add_stride_lt hk hp heven) (hupper ▸ hnot) (hbefore.imp hfirst And.right)

/-- Doing an enabled butterfly gives its two indices their next stage. -/
theorem DoneStages.cons {k p : Nat} (hk : k < m) (hp : p < 2 ^ m) (heven : p / stride m k % 2 = 0) (hm : 1 ≤ m)
    (hnot : (stride m k, p) ∉ done) (hlower : L p = k) (hupper : L (p + stride m k) = k) :
    DoneStages m ((stride m k, p) :: done) (fun x => if lowerIndex (stride m k) x = p then k + 1 else L x) where
  butterflies y hy := by
    obtain rfl | hy := List.mem_cons.mp hy
    · exact (isButterfly_iff hm).mpr ⟨k, hk, rfl, hp, heven⟩
    · exact h.butterflies y hy
  nodup := List.nodup_cons.mpr ⟨hnot, h.nodup⟩
  mem_iff x hx k' hk' := by
    rw [List.mem_cons, butterflyAt_eq_iff hk hk', h.mem_iff x hx k' hk']
    by_cases hpair : lowerIndex (stride m k) x = p
    · have hLx : L x = k := by
        obtain rfl | rfl := (lowerIndex_eq_iff (stride_pos m k) heven).mp hpair
        · exact hlower
        · exact hupper
      rw [if_pos hpair, hLx]
      simp only [hpair, and_true]
      omega
    · simp only [hpair, and_false, false_or, if_false]
  level_le x hx := by
    have hle := h.level_le x hx
    split <;> omega

end

/-! ### How many butterflies there are -/

/-- The butterflies of a transform of size `2^m`: for each of the `m` stages, one for each of its `2^m / 2` pairs. -/
def butterflySet (m : Nat) : Finset (Nat × Nat) :=
  (Finset.range (2 ^ m / 2) ×ˢ Finset.range m).image fun y =>
    (stride m y.2, y.1 % stride m y.2 + 2 * (y.1 / stride m y.2) * stride m y.2)

theorem card_butterflySet_le (m : Nat) : (butterflySet m).card ≤ 2 ^ m / 2 * m := by
  refine Finset.card_image_le.trans ?_
  rw [Finset.card_product, Finset.card_range, Finset.card_range]

theorem mem_butterflySet {m : Nat} (hm : 1 ≤ m) {y : Nat × Nat} (h : isButterfly (2 ^ m) y = true) :
    y ∈ butterflySet m := by
  obtain ⟨s, p⟩ := y
  obtain ⟨k, hk, rfl, hp, heven⟩ := (isButterfly_iff hm).mp h
  have hlt : p % stride m k < stride m k := Nat.mod_lt p (stride_pos m k)
  have hpair := lowerIndex_eq_add (stride m k) p
  rw [lowerIndex_of_even heven, Nat.mul_assoc] at hpair
  have hupper := add_stride_lt hk hp heven
  refine Finset.mem_image.mpr ⟨(p % stride m k + p / (2 * stride m k) * stride m k, k), ?_, ?_⟩
  · rw [Finset.mem_product, Finset.mem_range, Finset.mem_range]
    exact ⟨by omega, hk⟩
  · rw [element_mod hlt, element_div hlt, Nat.mul_assoc, ← hpair]

section
variable {m : Nat} {done : List (Nat × Nat)} {L : Nat → Nat} (h : DoneStages m done L) (hm : 1 ≤ m)
include h hm

theorem DoneStages.subset : done.toFinset ⊆ butterflySet m :=
  fun _ hy => mem_butterflySet hm (h.butterflies _ (List.mem_toFinset.mp hy))

theorem DoneStages.length_le : done.length ≤ 2 ^ m / 2 * m := by
  rw [← List.toFinset_card_of_nodup h.nodup]
  exact (Finset.card_le_card (h.subset hm)).trans (card_butterflySet_le m)

/-- When as many are done as there are, every index has had all of its stages. -/
theorem DoneStages.level_of_length (hlen : done.length = 2 ^ m / 2 * m) {x : Nat} (hx : x < 2 ^ m) : L x = m := by
  have hall : done.toFinset = butterflySet m := by
    refine Finset.eq_of_subset_of_card_le (h.subset hm) ?_
    rw [List.toFinset_card_of_nodup h.nodup, hlen]
    exact card_butterflySet_le m
  have hlast : butterflyAt m (m - 1) x ∈ done := by
    rw [← List.mem_toFinset, hall]
    have hlow := lowerIndex_le (stride m (m - 1)) x
    exact mem_butterflySet hm ((isButterfly_iff hm).mpr ⟨m - 1, by omega, rfl, by omega, lowerIndex_even _ _⟩)
  have hlt := (h.mem_iff x hx (m - 1) (by omega)).mp hlast
  have hle := h.level_le x hx
  omega

end

/-! ### A run in any order -/

/-- A run of enabled butterflies is not refused, and does stages of the indices it touches. -/
theorem dataflowRun_atStages {c : Cfg} {t : Memory} {b a : Nat → Nat} {m : Nat} (hin : Inputs c t b m a)
    {d₀ d : Memory} {L : Nat → Nat} {done picks : List (Nat × Nat)} {r : Except Refusal Memory}
    (h : DoneStages m done L) (hd : AtStages c b m a d₀ L d)
    (hrun : dataflowRun c t (2 ^ m) picks done d = some r) :
    ∃ done' L' d', r = .ok d' ∧ DoneStages m done' L' ∧ AtStages c b m a d₀ L' d' ∧
      done'.length = done.length + picks.length := by
  induction picks generalizing done d L with
  | nil => exact ⟨done, L, d, (Option.some.inj hrun).symm, h, hd, rfl⟩
  | cons y picks ih =>
    obtain ⟨s, p⟩ := y
    rw [dataflowRun] at hrun
    split at hrun
    · rename_i hen
      obtain ⟨k, hk, rfl, hp, heven, hnot, hlower, hupper⟩ := h.levels_of_enabled hin.one_le hen
      obtain ⟨lane, hload, hd₁⟩ := hd.bfly hin hk hp heven hlower hupper
      rw [bfly_of_load hload] at hrun
      obtain ⟨done', L', d', hr, h', hd', hlen⟩ :=
        ih (h.cons hk hp heven hin.one_le hnot hlower hupper) hd₁ hrun
      refine ⟨done', L', d', hr, h', hd', ?_⟩
      rw [hlen, List.length_cons, List.length_cons]
      omega
    · cases hrun

/-- Settles O33: a run keeps, of every index, that its first butterflies are done; once all are done the memory is that
of `NTT_SUB(0, 1)`. -/
theorem everyDependenceOrderGivesSameResult : Obligations.EveryDependenceOrderGivesSameResult := by
  intro c t d m a b picks r hp hm hform hd ha ht hb hb0 hrun
  have hin : Inputs c t b m a := ⟨hp, hm, ha, ht, hb, hb0⟩
  obtain ⟨done, L, d₁, rfl, h, h₁, hlen⟩ :=
    dataflowRun_atStages hin (doneStages_nil m) (atStages_start hform hd) hrun
  rw [List.length_nil, Nat.zero_add] at hlen
  refine ⟨hlen ▸ h.length_le hm, fun hall => ?_⟩
  obtain ⟨d₂, hsub, h₂⟩ := nttSub_atStages hin hform hd
  have hfull : AtStages c b m a d (fun _ => m) d₁ :=
    h₁.congr fun x hx => (h.level_of_length hm (hlen.trans hall) hx).symm
  rw [hsub, hfull.unique h₂]

end Sys2Proof.Machine
end

section
/-! One step of a task of a running `NTT` (R173, R182): it completes, gives stages to its own elements alone, and leaves
less to do. -/

namespace Sys2Proof.Machine

/-! ### The elements of a task -/

/-- `x` is an element of the sub-problem `o` of size `2^f`, in a transform of size `2^m`: an index with its residue. -/
def IsElement (m f o x : Nat) : Prop := x < 2 ^ m ∧ x % 2 ^ (m - f) = o

theorem two_pow_sub_succ (m g : Nat) : 2 ^ (m - (g + 1)) = stride m g := by
  rw [stride, Nat.sub_sub, Nat.add_comm]

theorem two_pow_sub {m g : Nat} (hg : g < m) : 2 ^ (m - g) = 2 * stride m g := by
  rw [stride, ← Nat.pow_succ']
  congr 1
  omega

/-- The children of a sub-problem share no element (R183). -/
theorem IsElement.not_odd_child {m g o x : Nat} (h : IsElement m g o x) :
    ¬ IsElement m g (o + stride m g) x := by
  rintro ⟨-, hodd⟩
  obtain ⟨-, heven⟩ := h
  have hpos := stride_pos m g
  omega

section
variable {m g o x : Nat} (hg : g < m) (ho : o < stride m g)
include hg ho

/-- The elements of a sub-problem are those of its two children. -/
theorem isElement_succ_iff : IsElement m (g + 1) o x ↔ IsElement m g o x ∨ IsElement m g (o + stride m g) x := by
  rw [IsElement, IsElement, IsElement, two_pow_sub_succ, two_pow_sub hg, mod_two_mul_iff ho, and_or_left]

theorem child_offset_lt : o < 2 ^ (m - g) ∧ o + stride m g < 2 ^ (m - g) := by
  rw [two_pow_sub hg]
  omega

end

/-! ### The progress of a task -/

/-- The task is that of sub-problem `o` of size `2^f`, and its phase says how many stages each of its elements has
had. -/
def TaskAt (m : Nat) : Nat → Nat → (Nat → Nat) → Task → Prop
  | f, o, L, .descend o' s' => o' = o ∧ s' = 2 ^ (m - f) ∧ ∀ x, IsElement m f o x → L x = 0
  | f, o, L, .done o' s' => o' = o ∧ s' = 2 ^ (m - f) ∧ ∀ x, IsElement m f o x → L x = f
  | f, o, L, .combine o' s' j => ∃ g, f = g + 1 ∧ o' = o ∧ s' = stride m g ∧ j ≤ 2 ^ g ∧
      ∀ x, IsElement m f o x → L x = if x / (2 * stride m g) < j then g + 1 else g
  | f, o, L, .join o' s' _ even odd => ∃ g, f = g + 1 ∧ o' = o ∧ s' = stride m g ∧ TaskAt m g o L even ∧
      TaskAt m g (o + stride m g) L odd

/-- An upper bound of the steps of a sub-problem of size `2^f`. -/
def descendSteps : Nat → Nat
  | 0 => 1
  | f + 1 => 2 * descendSteps f + 2 ^ f + 3

/-- An upper bound of the steps that a task of size `2^f` has left. -/
def Task.stepsLeft : Nat → Task → Nat
  | f, .descend _ _ => descendSteps f
  | _, .done _ _ => 0
  | f, .combine _ _ j => 2 ^ (f - 1) - j + 1
  | f, .join _ _ _ even odd => even.stepsLeft (f - 1) + odd.stepsLeft (f - 1) + 2 ^ (f - 1) + 2

section
variable (g o s j : Nat)

theorem descendSteps_succ : descendSteps (g + 1) = 2 * descendSteps g + 2 ^ g + 3 := rfl

theorem Task.stepsLeft_descend : (Task.descend o s).stepsLeft g = descendSteps g := rfl

theorem Task.stepsLeft_combine : (Task.combine o s j).stepsLeft (g + 1) = 2 ^ g - j + 1 := rfl

theorem Task.stepsLeft_join (par : Bool) (even odd : Task) :
    (Task.join o s par even odd).stepsLeft (g + 1) = even.stepsLeft g + odd.stepsLeft g + 2 ^ g + 2 := rfl

end

theorem descendSteps_pos (f : Nat) : 0 < descendSteps f := by
  cases f <;> simp [descendSteps]

section
variable {m f o : Nat} {L L' : Nat → Nat} {tk : Task}

/-- Only the stages of its own elements matter to a task. -/
theorem TaskAt.congr (hf : f ≤ m) (ho : o < 2 ^ (m - f)) (h : TaskAt m f o L tk)
    (hL : ∀ x, IsElement m f o x → L' x = L x) : TaskAt m f o L' tk := by
  induction tk generalizing f o with
  | descend | done =>
    obtain ⟨ho', hs', hx⟩ := h
    exact ⟨ho', hs', fun x hxo => (hL x hxo).trans (hx x hxo)⟩
  | combine o' s' j =>
    obtain ⟨g, hg, ho', hs', hj, hx⟩ := h
    exact ⟨g, hg, ho', hs', hj, fun x hxo => (hL x hxo).trans (hx x hxo)⟩
  | join o' s' par even odd iheven ihodd =>
    obtain ⟨g, rfl, ho', hs', heven, hodd⟩ := h
    rw [two_pow_sub_succ] at ho
    obtain ⟨hlt, hlt'⟩ := child_offset_lt (g := g) hf ho
    exact ⟨g, rfl, ho', hs',
      iheven (Nat.le_of_succ_le hf) hlt heven fun x hx => hL x ((isElement_succ_iff hf ho).mpr (.inl hx)),
      ihodd (Nat.le_of_succ_le hf) hlt' hodd fun x hx => hL x ((isElement_succ_iff hf ho).mpr (.inr hx))⟩

theorem TaskAt.level_of_done (h : TaskAt m f o L tk) (hdone : tk.isDone = true) {x : Nat} (hx : IsElement m f o x) :
    L x = f := by
  cases tk with
  | done o' s' =>
    obtain ⟨-, -, hL⟩ := h
    exact hL x hx
  | descend | join | combine => cases hdone

end

/-! ### One step -/

/-- With twiddle 1, loading for `BFLY0` makes the same store as loading for the butterfly. -/
theorem bfly0Load_of_bflyLoad {c : Cfg} {t d : Memory} {p q ti : Nat} {lane : Lane} (hone : t.read ti = some 1)
    (h : bflyLoad c t p q ti d = .ok lane) (lane₀ : Lane) :
    ∃ lane', bfly0Load c lane₀ p q d = .ok lane' ∧ bflyStore c lane' p q d = bflyStore c lane p q d := by
  obtain ⟨hev, hod, ⟨htwd, -⟩, hpr⟩ := bflyLoad_eq_ok.mp h
  have htwd1 : lane.twd = 1 := Option.some.inj (htwd.symm.trans hone)
  have hpr' : lane.pr = lane.od := by rw [hpr, htwd1, fmul, Nat.one_mul, Nat.mod_eq_of_lt hod.2]
  have hload : bfly0Load c lane₀ p q d = .ok ⟨lane.ev, lane.od, lane₀.twd, lane.od⟩ :=
    bfly0Load_eq_ok.mpr ⟨hev, hod, rfl, rfl⟩
  refine ⟨_, hload, ?_⟩
  rw [bflyStore, bflyStore, hpr']

/-- The stages of a combine loop are those its elements have had. -/
theorem AtStages.to_combineLevel {c : Cfg} {b a : Nat → Nat} {m g o j : Nat} {d₀ d : Memory} {L : Nat → Nat}
    (hd : AtStages c b m a d₀ L d)
    (hL : ∀ x, IsElement m (g + 1) o x → L x = if x / (2 * stride m g) < j then g + 1 else g) :
    AtStages c b m a d₀ (combineLevel o (stride m g) g j L) d := by
  refine hd.congr fun x hx => ?_
  rw [combineLevel]
  split
  · rename_i hxo
    exact (hL x ⟨hx, (two_pow_sub_succ m g).symm ▸ hxo⟩).symm
  · rfl

/-- The step completes, leaves less to do, and gives stages to the elements of the sub-problem alone. -/
def StepProgress (c : Cfg) (b : Nat → Nat) (m : Nat) (a : Nat → Nat) (d₀ : Memory) (f o : Nat) (L : Nat → Nat)
    (tk : Task) (x : Except Refusal (Task × Lane × Memory)) : Prop :=
  ∃ tk' lane' d' L', x = .ok (tk', lane', d') ∧ TaskAt m f o L' tk' ∧ AtStages c b m a d₀ L' d' ∧
    tk'.stepsLeft f < tk.stepsLeft f ∧ ∀ x, x < 2 ^ m → ¬ IsElement m f o x → L' x = L x

section
variable {c : Cfg} {t : Memory} {b a : Nat → Nat} {m : Nat} {d₀ d : Memory} {L : Nat → Nat} (hin : Inputs c t b m a)
  (hd : AtStages c b m a d₀ L d) (lane : Lane) (path : List Bool)
include hin hd

omit hin in
theorem stepProgress_descend_one {o s : Nat} (hat : TaskAt m 0 o L (.descend o s)) :
    StepProgress c b m a d₀ 0 o L (.descend o s) (taskStep c (2 ^ m) t lane d path (.descend o s)) := by
  obtain ⟨-, rfl, hL⟩ := hat
  have hz : 2 ^ m / 2 ^ (m - 0) ≤ 1 := (Nat.div_self (Nat.two_pow_pos m)).le
  exact ⟨_, _, _, L, taskStep_descend_one hz, ⟨rfl, rfl, hL⟩, hd, one_pos, fun _ _ _ => rfl⟩

theorem stepProgress_descend_two {o s : Nat} (ho : o < stride m 0) (hat : TaskAt m 1 o L (.descend o s)) :
    StepProgress c b m a d₀ 1 o L (.descend o s) (taskStep c (2 ^ m) t lane d path (.descend o s)) := by
  obtain ⟨-, rfl, hL⟩ := hat
  have hm : 0 < m := hin.one_le
  rw [two_pow_sub_succ m 0]
  have hsize : 2 ^ m = 2 * stride m 0 := two_pow_sub hm
  have hz : 2 ^ m / stride m 0 = 2 := by rw [hsize, Nat.mul_div_cancel _ (stride_pos m 0)]
  have hone : t.read 0 = some 1 := by rw [hin.holds 0 (Nat.two_pow_pos _), hin.table_zero]
  have hstart : AtStages c b m a d₀ (combineLevel o (stride m 0) 0 0 L) d :=
    hd.to_combineLevel fun x hx => by rw [hL x hx, if_neg (Nat.not_lt_zero _)]
  obtain ⟨lane₁, hload, h₁⟩ := hstart.combine_bfly hin hm ho one_pos
  simp only [Nat.mul_zero, Nat.zero_mul, Nat.add_zero] at hload h₁
  obtain ⟨lane', hload', hstore⟩ := bfly0Load_of_bflyLoad hone hload lane
  rw [← hstore] at h₁
  refine ⟨_, _, _, _, taskStep_descend_two hz hload', ⟨rfl, (two_pow_sub_succ m 0).symm, fun x hx => ?_⟩, h₁,
    descendSteps_pos 1, fun x hx hxo => ?_⟩
  · obtain ⟨hx, hxo⟩ := hx
    rw [two_pow_sub_succ] at hxo
    rw [combineLevel, if_pos hxo, Nat.div_eq_of_lt (hsize ▸ hx)]
    rfl
  · rw [IsElement, two_pow_sub_succ] at hxo
    rw [combineLevel, if_neg fun h => hxo ⟨hx, h⟩]

omit hin in
theorem stepProgress_descend_fork {g o s : Nat} (hg : g + 1 < m) (ho : o < stride m (g + 1))
    (hat : TaskAt m (g + 2) o L (.descend o s)) :
    StepProgress c b m a d₀ (g + 2) o L (.descend o s) (taskStep c (2 ^ m) t lane d path (.descend o s)) := by
  obtain ⟨-, rfl, hL⟩ := hat
  rw [two_pow_sub_succ m (g + 1)]
  have hz : 2 < 2 ^ m / stride m (g + 1) := by
    rw [← size_mul_stride hg, Nat.mul_div_cancel _ (stride_pos m _)]
    exact two_lt_two_pow g
  refine ⟨_, _, _, L, taskStep_descend_fork hz, ⟨g + 1, rfl, rfl, rfl, ?_, ?_⟩, hd, ?_, fun _ _ _ => rfl⟩
  · exact ⟨rfl, (two_pow_sub hg).symm, fun x hx => hL x ((isElement_succ_iff hg ho).mpr (.inl hx))⟩
  · exact ⟨rfl, (two_pow_sub hg).symm, fun x hx => hL x ((isElement_succ_iff hg ho).mpr (.inr hx))⟩
  · rw [Task.stepsLeft_join, Task.stepsLeft_descend, Task.stepsLeft_descend, Task.stepsLeft_descend,
      descendSteps_succ (g + 1)]
    omega

theorem stepProgress_combine {g o s j : Nat} (hg : g < m) (ho : o < stride m g)
    (hat : TaskAt m (g + 1) o L (.combine o s j)) :
    StepProgress c b m a d₀ (g + 1) o L (.combine o s j) (taskStep c (2 ^ m) t lane d path (.combine o s j)) := by
  obtain ⟨g', heq, -, rfl, hj, hL⟩ := hat
  obtain rfl : g = g' := Nat.succ.inj heq
  have hz : 2 ^ m / stride m g / 2 = 2 ^ g := by
    rw [← size_mul_stride hg, Nat.mul_div_cancel _ (stride_pos m _), two_pow_div_two (Nat.le_add_left 1 g),
      Nat.add_sub_cancel]
  obtain hlt | rfl := hj.lt_or_eq
  · obtain ⟨lane', hload, h'⟩ := (hd.to_combineLevel hL).combine_bfly hin hg ho hlt
    refine ⟨_, _, _, _, taskStep_combine (hz.symm ▸ hlt) hload, ⟨g, rfl, rfl, rfl, hlt, fun x hx => ?_⟩, h', ?_,
      fun x hx hxo => ?_⟩
    · obtain ⟨-, hxo⟩ := hx
      rw [two_pow_sub_succ] at hxo
      rw [combineLevel, if_pos hxo]
    · rw [Task.stepsLeft_combine, Task.stepsLeft_combine]
      omega
    · rw [IsElement, two_pow_sub_succ] at hxo
      rw [combineLevel, if_neg fun h => hxo ⟨hx, h⟩]
  · refine ⟨_, _, _, L, taskStep_combine_end hz.le, ⟨rfl, (two_pow_sub_succ m g).symm, fun x hx => ?_⟩, hd,
      Nat.succ_pos _, fun _ _ _ => rfl⟩
    rw [hL x hx, if_pos (pair_lt hg hx.1)]

omit hin in
theorem stepProgress_join_done {g o s : Nat} {par : Bool} {even odd : Task} (hg : g < m) (ho : o < stride m g)
    (hat : TaskAt m (g + 1) o L (.join o s par even odd)) (heven : even.isDone = true) (hodd : odd.isDone = true) :
    StepProgress c b m a d₀ (g + 1) o L (.join o s par even odd)
      (taskStep c (2 ^ m) t lane d path (.join o s par even odd)) := by
  obtain ⟨g', heq, -, rfl, hateven, hatodd⟩ := hat
  obtain rfl : g = g' := Nat.succ.inj heq
  refine ⟨_, _, _, L, taskStep_join_done heven hodd, ⟨g, rfl, rfl, rfl, Nat.zero_le _, fun x hx => ?_⟩, hd, ?_,
    fun _ _ _ => rfl⟩
  · rw [if_neg (Nat.not_lt_zero _)]
    obtain hx | hx := (isElement_succ_iff hg ho).mp hx
    · exact hateven.level_of_done heven hx
    · exact hatodd.level_of_done hodd hx
  · rw [Task.stepsLeft_combine, Task.stepsLeft_join, Nat.sub_zero]
    have hpos := Nat.two_pow_pos g
    omega

omit hin hd in
/-- A step of the even child is a step of the parent. -/
theorem StepProgress.of_even {g o s : Nat} {par : Bool} {even odd : Task} (hg : g < m) (ho : o < stride m g)
    (hat : TaskAt m (g + 1) o L (.join o s par even odd)) (hlive : (even.isDone && odd.isDone) = false)
    (hmoves : oddMoves par path even odd = false)
    (h : StepProgress c b m a d₀ g o L even (taskStep c (2 ^ m) t lane d path.tail even)) :
    StepProgress c b m a d₀ (g + 1) o L (.join o s par even odd)
      (taskStep c (2 ^ m) t lane d path (.join o s par even odd)) := by
  obtain ⟨g', heq, -, rfl, -, hatodd⟩ := hat
  obtain rfl : g = g' := Nat.succ.inj heq
  obtain ⟨even', lane', d', L', hstep, hateven', hd', hless, hframe⟩ := h
  obtain ⟨-, hlt⟩ := child_offset_lt hg ho
  refine ⟨.join o (stride m g) par even' odd, lane', d', L', ?_, ⟨g, rfl, rfl, rfl, hateven', ?_⟩, hd', ?_, ?_⟩
  · rw [taskStep_join_even hlive hmoves, hstep]
    rfl
  · exact hatodd.congr hg.le hlt fun x hx => hframe x hx.1 fun heven => heven.not_odd_child hx
  · rw [Task.stepsLeft_join, Task.stepsLeft_join]
    omega
  · exact fun x hx hxo => hframe x hx fun h => hxo ((isElement_succ_iff hg ho).mpr (.inl h))

omit hin hd in
/-- A step of the odd child is a step of the parent. -/
theorem StepProgress.of_odd {g o s : Nat} {par : Bool} {even odd : Task} (hg : g < m) (ho : o < stride m g)
    (hat : TaskAt m (g + 1) o L (.join o s par even odd)) (hlive : (even.isDone && odd.isDone) = false)
    (hmoves : oddMoves par path even odd = true)
    (h : StepProgress c b m a d₀ g (o + stride m g) L odd (taskStep c (2 ^ m) t lane d path.tail odd)) :
    StepProgress c b m a d₀ (g + 1) o L (.join o s par even odd)
      (taskStep c (2 ^ m) t lane d path (.join o s par even odd)) := by
  obtain ⟨g', heq, -, rfl, hateven, -⟩ := hat
  obtain rfl : g = g' := Nat.succ.inj heq
  obtain ⟨odd', lane', d', L', hstep, hatodd', hd', hless, hframe⟩ := h
  obtain ⟨hlt, -⟩ := child_offset_lt hg ho
  refine ⟨.join o (stride m g) par even odd', lane', d', L', ?_, ⟨g, rfl, rfl, rfl, ?_, hatodd'⟩, hd', ?_, ?_⟩
  · rw [taskStep_join_odd hlive hmoves, hstep]
    rfl
  · exact hateven.congr hg.le hlt fun x hx => hframe x hx.1 hx.not_odd_child
  · rw [Task.stepsLeft_join, Task.stepsLeft_join]
    omega
  · exact fun x hx hxo => hframe x hx fun h => hxo ((isElement_succ_iff hg ho).mpr (.inr h))

/-- Every live task steps, on any lane and any path: by its phase, and at a join by the child that moves. -/
theorem taskStep_progress {f o : Nat} {tk : Task} (hf : f ≤ m) (ho : o < 2 ^ (m - f)) (hat : TaskAt m f o L tk)
    (hlive : tk.isDone = false) : StepProgress c b m a d₀ f o L tk (taskStep c (2 ^ m) t lane d path tk) := by
  induction tk generalizing f o path with
  | done => cases hlive
  | descend o' s =>
    obtain rfl : o' = o := hat.1
    obtain _ | _ | g := f
    · exact stepProgress_descend_one hd lane path hat
    · rw [two_pow_sub_succ] at ho
      exact stepProgress_descend_two hin hd lane path ho hat
    · rw [two_pow_sub_succ] at ho
      exact stepProgress_descend_fork hd lane path hf ho hat
  | combine o' s j =>
    have hphase := hat
    obtain ⟨g, rfl, rfl, -⟩ := hphase
    rw [two_pow_sub_succ] at ho
    exact stepProgress_combine hin hd lane path hf ho hat
  | join o' s par even odd iheven ihodd =>
    have hphase := hat
    obtain ⟨g, rfl, rfl, -, hateven, hatodd⟩ := hphase
    rw [two_pow_sub_succ] at ho
    obtain ⟨hlt, hlt'⟩ := child_offset_lt (g := g) hf ho
    cases hboth : even.isDone && odd.isDone with
    | true =>
      obtain ⟨heven, hodd⟩ := Bool.and_eq_true_iff.mp hboth
      exact stepProgress_join_done hd lane path hf ho hat heven hodd
    | false =>
      cases hmoves : oddMoves par path even odd with
      | true =>
        obtain ⟨hodd, -⟩ := oddMoves_of_true hboth hmoves
        exact .of_odd lane path hf ho hat hboth hmoves (ihodd path.tail (Nat.le_of_succ_le hf) hlt' hatodd hodd)
      | false =>
        obtain ⟨heven, -⟩ := oddMoves_of_false hmoves
        exact .of_even lane path hf ho hat hboth hmoves (iheven path.tail (Nat.le_of_succ_le hf) hlt hateven heven)

end

end Sys2Proof.Machine
end

section
/-! Every schedule of a posted command ends in the state of the atomic reading (R184, R186): from each state of the run
every engine event leads to one with fewer steps left, and the last of them retires into that state. -/

namespace Sys2Proof.Machine

/-! ### Schedules -/

/-- Every schedule of `n` engine events or more, on existing lanes, leads from `s` to `fin`. -/
def EndsWithin (lanes n : Nat) (s fin : State) : Prop :=
  ∀ sched : List (Nat × List Bool), n ≤ sched.length → (∀ x ∈ sched, x.1 < lanes) → engineRun sched s = .next fin

theorem engineRun_cons {lane : Nat} {path : List Bool} {rest : List (Nat × List Bool)} {s s' : State}
    (h : onEvent (.engine lane path) s = .next s') : engineRun ((lane, path) :: rest) s = engineRun rest s' := by
  rw [engineRun, h]

/-- The engine does nothing while no command runs (R201). -/
theorem onEvent_engine_of_idle {lane : Nat} {path : List Bool} {s : State} (hm : s.status.mode = .idle)
    (hlane : lane < s.cfg.lanes) : onEvent (.engine lane path) s = .next s := by
  have hengine : engineStep lane path s = .next s := by simp only [engineStep, hm]
  rw [← hengine]
  exact if_pos hlane

theorem endsWithin_zero {s : State} (hm : s.status.mode = .idle) : EndsWithin s.cfg.lanes 0 s s := by
  intro sched _ hlanes
  induction sched with
  | nil => rfl
  | cons x rest ih =>
    rw [engineRun_cons (onEvent_engine_of_idle hm (hlanes x List.mem_cons_self))]
    exact ih (Nat.zero_le _) fun y hy => hlanes y (List.mem_cons_of_mem _ hy)

/-- One more step: whichever event comes first, its next state ends within the steps that are left. -/
theorem endsWithin_succ {lanes n : Nat} {s fin : State}
    (h : ∀ lane path, lane < lanes → ∃ s', onEvent (.engine lane path) s = .next s' ∧ EndsWithin lanes n s' fin) :
    EndsWithin lanes (n + 1) s fin := by
  intro sched hlen hlanes
  cases sched with
  | nil => exact absurd hlen (Nat.not_succ_le_zero n)
  | cons x rest =>
    obtain ⟨s', hevent, hrest⟩ := h x.1 x.2 (hlanes x List.mem_cons_self)
    rw [engineRun_cons hevent]
    exact hrest rest (Nat.le_of_succ_le_succ hlen) fun y hy => hlanes y (List.mem_cons_of_mem _ hy)

theorem EndsWithin.mono {lanes n n' : Nat} {s fin : State} (h : EndsWithin lanes n s fin) (hn : n ≤ n') :
    EndsWithin lanes n' s fin :=
  fun sched hlen => h sched (hn.trans hlen)

/-! ### The states of a run -/

/-- A posted command on `DMEM` midway: what its micro-operations have changed. -/
def runningData (i : Instr) (s : State) (d : Memory) (seq : Desc) (lanes : List Lane) (tmp : Nat) : State :=
  { beginRun (startRun i 0 s) s with
    dmem := d, run := some { startRun i 0 s with seq := seq, lanes := lanes, tmp := tmp } }

/-- A posted `BUILD_TW` midway. -/
def runningTable (g : Nat) (s : State) (t : Memory) (seq : Desc) (acc tmp : Nat) : State :=
  { beginRun (startRun .buildTw g s) s with
    tmem := t, run := some { startRun .buildTw g s with seq := seq, acc := acc, tmp := tmp } }

/-- An engine event of a running block is a micro-operation, whatever the lane and the path. -/
theorem endsWithin_of_microStep {n : Nat} {s fin : State} {r : Run} (hm : s.status.mode = .busy)
    (hr : s.run = some r)
    (h : ∀ lane path, ∃ s', microStep lane path r s = .next s' ∧ EndsWithin s.cfg.lanes n s' fin) :
    EndsWithin s.cfg.lanes (n + 1) s fin := by
  refine endsWithin_succ fun lane path hlane => ?_
  rw [onEvent_engine hm hr hlane]
  exact h lane path

/-- A run ends with its retire. -/
theorem endsWithin_of_retire {s : State} {r : Run} (hm : s.status.mode = .busy) (hr : s.run = some r)
    (h : ∀ lane path, microStep lane path r s = .next (retire s)) : EndsWithin s.cfg.lanes 1 s (retire s) := by
  refine endsWithin_of_microStep hm hr fun lane path => ⟨_, h lane path, ?_⟩
  have hidle : (retire s).status.mode = .idle := by rw [retire_status, retired_mode]
  have hcfg := retire_cfg s
  exact hcfg ▸ endsWithin_zero hidle

theorem retire_runningData {i : Instr} (hi : opcode i ≠ 1#4) (s : State) (d : Memory) (seq : Desc) (lanes : List Lane)
    (tmp : Nat) : retire (runningData i s d seq lanes tmp) = doneWithData s d := by
  have htwlen : (if opcode i = 1#4 then s.len >>> 1 else s.twlen) = s.twlen := if_neg hi
  exact congrArg (fun v => { doneWithData s d with twlen := v }) htwlen

theorem retire_runningTable (g : Nat) (s : State) (t : Memory) (seq : Desc) (acc tmp : Nat) :
    retire (runningTable g s t seq acc tmp) = doneWithTable s t := rfl

/-! ### The micro-operations -/

section
variable {lane : Nat} {path : List Bool} {r : Run} {s : State} {i tmp : Nat} {m : Memory}

theorem microStep_series (hseq : r.seq = .series i) (hi : i < halfLength r.nl.toNat) :
    microStep lane path r s = .next { s with
      tmem := s.tmem.write i r.acc
      run := some { r with seq := .series (i + 1), acc := fmul s.cfg r.acc r.gen } } := by
  simp only [microStep, hseq, if_pos hi, pserStep]

theorem microStep_series_end (hseq : r.seq = .series i) (hi : halfLength r.nl.toNat ≤ i) :
    microStep lane path r s = .next { s with run := some { r with seq := .permuteTable 0 } } := by
  simp only [microStep, hseq, if_neg hi.not_gt]

theorem microStep_permuteTable (hseq : r.seq = .permuteTable i) (hi : i < halfLength r.nl.toNat)
    (hstep : permuteStep .tmem (logLength r.nl.toNat - 1) i r.tmp s.tmem = .ok (tmp, m)) :
    microStep lane path r s =
      .next { s with tmem := m, run := some { r with seq := .permuteTable (i + 1), tmp := tmp } } := by
  simp only [microStep, hseq, if_pos hi, hstep]

theorem microStep_permuteTable_end (hseq : r.seq = .permuteTable i) (hi : halfLength r.nl.toNat ≤ i) :
    microStep lane path r s = .next (retire s) := by
  simp only [microStep, hseq, if_neg hi.not_gt]

theorem microStep_permuteData (hseq : r.seq = .permuteData i) (hi : i < r.nl.toNat)
    (hstep : permuteStep .dmem (logLength r.nl.toNat) i r.tmp s.dmem = .ok (tmp, m)) :
    microStep lane path r s =
      .next { s with dmem := m, run := some { r with seq := .permuteData (i + 1), tmp := tmp } } := by
  simp only [microStep, hseq, if_pos hi, hstep]

theorem microStep_permuteData_end (hseq : r.seq = .permuteData i) (hi : r.nl.toNat ≤ i) :
    microStep lane path r s = .next (retire s) := by
  simp only [microStep, hseq, if_neg hi.not_gt]

theorem microStep_tasks {tk tk' : Task} {lane' : Lane} (hseq : r.seq = .tasks tk) (hlive : tk.isDone = false)
    (hstep : taskStep s.cfg r.nl.toNat s.tmem (r.lanes.getD lane Lane.clear) s.dmem path tk = .ok (tk', lane', m)) :
    microStep lane path r s =
      .next { s with dmem := m, run := some { r with seq := .tasks tk', lanes := r.lanes.set lane lane' } } := by
  simp only [microStep, hseq, hlive, hstep, Bool.false_eq_true, if_false]

theorem microStep_tasks_end {tk : Task} (hseq : r.seq = .tasks tk) (hdone : tk.isDone = true) :
    microStep lane path r s = .next (retire s) := by
  simp only [microStep, hseq, hdone, if_true]

end

/-! ### The loops of the permutation unit -/

/-- What an iteration does to the memory does not depend on what `TMP` held. -/
theorem permuteStep_any_tmp {sp : Space} {b i tmp tmp' : Nat} {m m' : Memory}
    (h : permuteStep sp b i tmp m = .ok (tmp', m')) (tmp₁ : Nat) :
    ∃ tmp₁', permuteStep sp b i tmp₁ m = .ok (tmp₁', m') := by
  obtain ⟨hle, -, rfl⟩ | ⟨hlt, hswap⟩ := permuteStep_eq_ok h
  · exact ⟨tmp₁, permuteStep_of_le hle sp tmp₁ _⟩
  · exact ⟨tmp', (permuteStep_of_lt hlt sp tmp₁ m).trans hswap⟩

theorem permuteLoop_succ_eq_ok {sp : Space} {b k i : Nat} {m m' : Memory}
    (h : permuteLoop sp b (k + 1) i m = .ok m') :
    ∃ tmp m₁, permuteStep sp b i 0 m = .ok (tmp, m₁) ∧ permuteLoop sp b k (i + 1) m₁ = .ok m' := by
  rw [permuteLoop] at h
  split at h
  · cases h
  · exact ⟨_, _, ‹_›, h⟩

/-- A posted `BITREV` at index `i` ends as the rest of the loop does. -/
theorem endsWithin_permuteData {s : State} {k i tmp : Nat} {d d' : Memory} {lanes : List Lane}
    (hki : i + k = s.len.toNat) (hloop : permuteLoop .dmem (logLength s.len.toNat) k i d = .ok d') :
    EndsWithin s.cfg.lanes (k + 1) (runningData .bitrev s d (.permuteData i) lanes tmp) (doneWithData s d') := by
  induction k generalizing i tmp d with
  | zero =>
    have heq : d = d' := Except.ok.inj hloop
    rw [← heq, ← retire_runningData (i := .bitrev) (by decide) s d (.permuteData i) lanes tmp]
    exact endsWithin_of_retire (s := runningData .bitrev s d (.permuteData i) lanes tmp) rfl rfl fun lane path =>
      microStep_permuteData_end rfl hki.ge
  | succ k ih =>
    obtain ⟨tmp₀, d₁, hstep, hrest⟩ := permuteLoop_succ_eq_ok hloop
    obtain ⟨tmp', hstep'⟩ := permuteStep_any_tmp hstep tmp
    have hi : i < s.len.toNat := by omega
    exact endsWithin_of_microStep (s := runningData .bitrev s d (.permuteData i) lanes tmp) rfl rfl fun lane path =>
      ⟨_, microStep_permuteData rfl hi hstep', ih (by omega) hrest⟩

/-- A posted `BUILD_TW` at index `i` of its second loop ends as the rest of that loop does. -/
theorem endsWithin_permuteTable {s : State} {g k i acc tmp : Nat} {t t' : Memory}
    (hki : i + k = halfLength s.len.toNat) (hloop : permuteLoop .tmem (logLength s.len.toNat - 1) k i t = .ok t') :
    EndsWithin s.cfg.lanes (k + 1) (runningTable g s t (.permuteTable i) acc tmp) (doneWithTable s t') := by
  induction k generalizing i tmp t with
  | zero =>
    have heq : t = t' := Except.ok.inj hloop
    rw [← heq, ← retire_runningTable g s t (.permuteTable i) acc tmp]
    exact endsWithin_of_retire (s := runningTable g s t (.permuteTable i) acc tmp) rfl rfl fun lane path =>
      microStep_permuteTable_end rfl hki.ge
  | succ k ih =>
    obtain ⟨tmp₀, t₁, hstep, hrest⟩ := permuteLoop_succ_eq_ok hloop
    obtain ⟨tmp', hstep'⟩ := permuteStep_any_tmp hstep tmp
    have hi : i < halfLength s.len.toNat := by omega
    exact endsWithin_of_microStep (s := runningTable g s t (.permuteTable i) acc tmp) rfl rfl fun lane path =>
      ⟨_, microStep_permuteTable rfl hi hstep', ih (by omega) hrest⟩

/-- A posted `BUILD_TW` at index `i` of its first loop ends as the rest of the two loops does. -/
theorem endsWithin_series {s : State} {g k i acc tmp : Nat} {t t' : Memory} (hki : i + k = halfLength s.len.toNat)
    (hloop : permuteLoop .tmem (logLength s.len.toNat - 1) (halfLength s.len.toNat) 0 (pserLoop s.cfg g k i acc t) =
      .ok t') :
    EndsWithin s.cfg.lanes (k + 1 + (halfLength s.len.toNat + 1)) (runningTable g s t (.series i) acc tmp)
      (doneWithTable s t') := by
  induction k generalizing i acc t with
  | zero =>
    rw [Nat.zero_add, Nat.add_comm 1]
    exact endsWithin_of_microStep (s := runningTable g s t (.series i) acc tmp) rfl rfl fun lane path =>
      ⟨_, microStep_series_end rfl hki.ge, endsWithin_permuteTable (Nat.zero_add _) hloop⟩
  | succ k ih =>
    have hi : i < halfLength s.len.toNat := by omega
    rw [Nat.add_right_comm (k + 1)]
    exact endsWithin_of_microStep (s := runningTable g s t (.series i) acc tmp) rfl rfl fun lane path =>
      ⟨_, microStep_series rfl hi, ih (by omega) hloop⟩

/-! ### The tasks -/

section
variable {s : State} {b a : Nat → Nat} {m : Nat} {d d' : Memory} {L : Nat → Nat} {tk : Task} {lanes : List Lane}
  (hfin : AtStages s.cfg b m a s.dmem (fun _ => m) d') (hat : TaskAt m m 0 L tk)
  (hd : AtStages s.cfg b m a s.dmem L d)
include hfin hat hd

/-- When the root task is done, every index has had all of its stages. -/
theorem endsWithin_root_done (hdone : tk.isDone = true) :
    EndsWithin s.cfg.lanes 1 (runningData .ntt s d (.tasks tk) lanes 0) (doneWithData s d') := by
  have hall : AtStages s.cfg b m a s.dmem (fun _ => m) d := hd.congr fun x hx =>
    (hat.level_of_done hdone ⟨hx, by rw [Nat.sub_self, pow_zero, Nat.mod_one]⟩).symm
  rw [← hall.unique hfin, ← retire_runningData (i := .ntt) (by decide) s d (.tasks tk) lanes 0]
  exact endsWithin_of_retire (s := runningData .ntt s d (.tasks tk) lanes 0) rfl rfl fun lane path =>
    microStep_tasks_end rfl hdone

/-- A posted `NTT` ends within the steps its root task has left, and the retire, with every index at its last stage. -/
theorem endsWithin_tasks (hin : Inputs s.cfg s.tmem b m a) (hlen : s.len.toNat = 2 ^ m) :
    EndsWithin s.cfg.lanes (tk.stepsLeft m + 1) (runningData .ntt s d (.tasks tk) lanes 0) (doneWithData s d') := by
  induction hn : tk.stepsLeft m using Nat.strong_induction_on generalizing tk L d lanes with
  | _ n ih =>
    cases hdone : tk.isDone with
    | true => exact (endsWithin_root_done hfin hat hd hdone).mono (by omega)
    | false =>
      refine endsWithin_of_microStep (s := runningData .ntt s d (.tasks tk) lanes 0) rfl rfl fun lane path => ?_
      obtain ⟨tk', lane', d₁, L', hstep, hat', hd₁, hless, -⟩ := taskStep_progress hin hd (lanes.getD lane Lane.clear)
        path le_rfl (by rw [Nat.sub_self, pow_zero]; exact one_pos) hat hdone
      rw [← hlen] at hstep
      exact ⟨_, microStep_tasks rfl hdone hstep, (ih _ (hn ▸ hless) hat' hd₁ rfl).mono (by omega)⟩

end

/-! ### From issue to the end -/

/-- A posted word that leaves an idle block busy is a command that has been issued. -/
theorem issued_of_busy {s s₀ : State} {i : Instr} (hm : s.status.mode = .idle)
    (h : hostOp true (.regWrite (encodeReg i) (encode i)) s = .next s₀) (hbusy : s₀.status.mode = .busy) :
    (∀ rsv, i ≠ .srst rsv) ∧ checkLength s.cfg i s.len s.twlen = none ∧ ∃ r, latch i s = .ok r ∧ s₀ = beginRun r s := by
  cases hostOp_next h with
  | issued w i' r _ hevent hd hc hlatch =>
    have hop := Event.post.inj hevent
    obtain ⟨hreg, hword⟩ := HostOp.regWrite.inj hop
    have hdecode : decode regCmd w = .ok i := by rw [← hreg, ← hword, decode_encode]
    obtain rfl : i = i' := Except.ok.inj (hdecode.symm.trans hd)
    obtain ⟨-, -, hn⟩ | ⟨hr, -⟩ := decode_reg hdecode
    · exact ⟨hn, hc, r, hlatch, rfl⟩
    · exact absurd hr (by decide)
  | micro lane path r t hevent => cases hevent
  | ignored | answered | lenWritten | dataWritten => simp [hm] at hbusy
  | held _ hm' => simp [hm] at hm'
  | powerOn | soft | checkFailed | nonCanonical => simp [Status.reset] at hbusy
  | ranBuildTw | ranNtt | ranBitrev => simp at hbusy

/-- A word of `DMEM` that has a value is canonical. -/
theorem BlockInv.canonical_of_holds {s : State} (hs : BlockInv s) {n : Nat} {x : Nat → Nat} (h : s.dmem.Holds n x)
    {k : Nat} (hk : k < n) : x k < s.cfg.p :=
  hs.dmem_canonical _ (mem_of_read (h k hk))

section
variable {s : State}

/-- Every schedule of the command that has been issued ends in the state of its atomic reading. -/
def SchedulesAgree (i : Instr) (r : Run) (s : State) : Prop :=
  ∃ n t, EndsWithin s.cfg.lanes n (beginRun r s) t ∧ exec i s = .next t

variable (hm : s.status.mode = .idle) {r : Run}
include hm

theorem schedulesAgree_bitrev (hc : checkLength s.cfg .bitrev s.len s.twlen = none) (hlatch : latch .bitrev s = .ok r) :
    SchedulesAgree .bitrev r s := by
  obtain ⟨m, hready⟩ := ready_of_checkLength hm hc
  obtain ⟨hmissing, g, hg, rfl⟩ := latch_eq_ok hlatch
  obtain rfl : 0 = g := Except.ok.inj hg
  have hx := holds_of_firstMissing (dmem_firstMissing (.inr rfl) hmissing)
  rw [hready.len] at hx
  obtain ⟨d, hloop, -, -⟩ := permuteLoop_of_holds .dmem hx
  have hloop' : permuteLoop .dmem (logLength s.len.toNat) s.len.toNat 0 s.dmem = .ok d := by
    rw [hready.len, logLength_two_pow, hloop]
  refine ⟨_, doneWithData s d, endsWithin_permuteData (tmp := 0) (Nat.zero_add _) hloop', ?_⟩
  change command .bitrev bitrevBody s = _
  rw [command_of_latch hm hc hlatch, bitrevBody_startRun, hloop']
  rfl

variable (hcfg : s.cfg.Valid)
include hcfg

theorem schedulesAgree_buildTw (hc : checkLength s.cfg .buildTw s.len s.twlen = none)
    (hlatch : latch .buildTw s = .ok r) : SchedulesAgree .buildTw r s := by
  obtain ⟨m, hready⟩ := ready_of_checkLength hm hc
  obtain ⟨hm1, -⟩ := hready.of_checkLength_buildTw hc
  obtain ⟨-, g, -, rfl⟩ := latch_eq_ok hlatch
  have hseries : (pser s.cfg g (2 ^ (m - 1)) s.tmem).Holds (2 ^ (m - 1)) (fexp s.cfg g) :=
    fun _ hj => read_pser_of_lt hcfg.prime.one_lt hj _ _
  obtain ⟨t, hloop, -, -⟩ := permuteLoop_of_holds .tmem hseries
  have hloop' : permuteLoop .tmem (logLength s.len.toNat - 1) (halfLength s.len.toNat) 0
      (pser s.cfg g (halfLength s.len.toNat) s.tmem) = .ok t := by
    rw [hready.len, logLength_two_pow, halfLength, two_pow_div_two hm1, hloop]
  refine ⟨_, doneWithTable s t, endsWithin_series (tmp := 0) (Nat.zero_add _) hloop', ?_⟩
  change command .buildTw buildTwBody s = _
  rw [command_of_latch hm hc hlatch, buildTwBody_startRun, hloop']
  rfl

variable (hs : BlockInv s)
include hs

/-- What the check and the latch of `NTT` and the invariant of the block give its transform. -/
theorem inputs_of_checkLength {m : Nat} (hready : Ready s m) (hc : checkLength s.cfg .ntt s.len s.twlen = none)
    {x : Nat → Nat} (hx : s.dmem.Holds (2 ^ m) x) : Inputs s.cfg s.tmem (tableEntry s.cfg m) m x := by
  have htwlen := hready.of_checkLength_ntt hc
  have hp := hcfg.prime.one_lt
  have hm1 : 1 ≤ m := by
    obtain _ | m := m
    · rw [pow_zero] at htwlen
      omega
    · omega
  have hhalf : s.twlen.toNat = 2 ^ (m - 1) := by
    rw [← two_pow_div_two hm1, htwlen, Nat.mul_div_cancel_left _ two_pos]
  have htable : TableFor s.cfg m s.tmem := hs.table (by simp [hm]) m hm1 hhalf
  refine ⟨hp, hm1, fun k => hs.canonical_of_holds hx, htable, fun j _ => Nat.mod_lt _ hcfg.prime.pos, ?_⟩
  exact Option.some.inj ((htable 0 (Nat.two_pow_pos _)).symm.trans (htable.read_zero hp))

theorem schedulesAgree_ntt (hc : checkLength s.cfg .ntt s.len s.twlen = none) (hlatch : latch .ntt s = .ok r) :
    SchedulesAgree .ntt r s := by
  obtain ⟨m, hready⟩ := ready_of_checkLength hm hc
  obtain ⟨hmissing, g, hg, rfl⟩ := latch_eq_ok hlatch
  obtain rfl : 0 = g := Except.ok.inj hg
  have hx := holds_of_firstMissing (dmem_firstMissing (.inl rfl) hmissing)
  rw [hready.len] at hx
  have hin := inputs_of_checkLength hm hcfg hs hready hc hx
  obtain ⟨d, hsub, hd⟩ := nttSub_atStages hin hs.form.dmem hx
  have hroot : TaskAt m m 0 (fun _ => 0) (.descend 0 1) :=
    ⟨rfl, by rw [Nat.sub_self, pow_zero], fun _ _ => rfl⟩
  refine ⟨_, doneWithData s d,
    endsWithin_tasks hd hroot (atStages_start hs.form.dmem hx) hin hready.len, ?_⟩
  change command .ntt nttBody s = _
  rw [command_of_latch hm hc hlatch, nttBody_startRun, hready.len, logLength_two_pow, hsub]
  rfl

end

/-- Settles O30: a command that has been issued is one of three, and every schedule of each ends in the state of its
atomic reading. -/
theorem everyScheduleReachesAtomicResult : Obligations.EveryScheduleReachesAtomicResult := by
  intro s s₀ i hcfg hs hm hpost hbusy
  obtain ⟨hn, hc, r, hlatch, rfl⟩ := issued_of_busy hm hpost hbusy
  have hagree : SchedulesAgree i r s := by
    cases i with
    | buildTw => exact schedulesAgree_buildTw hm hcfg hc hlatch
    | ntt => exact schedulesAgree_ntt hm hcfg hs hc hlatch
    | bitrev => exact schedulesAgree_bitrev hm hc hlatch
    | srst rsv => exact absurd rfl (hn rsv)
  obtain ⟨n, t, hends, hexec⟩ := hagree
  exact ⟨n, fun sched hlen hlanes => ⟨t, hends sched hlen hlanes, hexec⟩⟩

end Sys2Proof.Machine
end
